-- ==== Sys2Proof/Word.lean ====
section
/-! DEFINITION. The two word types of the 6507 (R4, R10 to R13) and the plain notation of R4: `hi:lo`
and the high and low byte of an address. -/

namespace Sys2Proof

/-- A byte: the width `REG_BITS` = 8 of A, X, Y, S and of every datum (R3, R4). -/
abbrev Byte := BitVec 8

/-- An internal address: the width `PC_BITS` = 16 of the program counter (R3, R4). -/
abbrev Word := BitVec 16

/-- `hi:lo` of R4: the 16-bit value `256*hi + lo`. -/
def hilo (hi lo : Byte) : Word := hi ++ lo

/-- `w[15:8]` of R4. -/
def hiByte (w : Word) : Byte := w.extractLsb' 8 8

/-- `w[7:0]` of R4. -/
def loByte (w : Word) : Byte := w.extractLsb' 0 8

end Sys2Proof
end

