-- ==== Sys2Proof/Config.lean ====
section
/-! DEFINITION. The implementation parameters of R3 that are constants for the 6507, and the open answer of a
platform's devices. The other OPEN parameters stand elsewhere: `Bus` is the field `bus` of the state (log 3),
`ADMIT_UNDOCUMENTED` a field of the state (log 4), `RESET_DRAW` an argument of `State.resetStep` (log 1), `HALT` an
argument of `Safety.final` (log 19). -/

namespace Sys2Proof

/-- One access as the platform sees it: a bus address and, for a write, the byte (R31). -/
inductive Access where
  | read (a : Nat)
  | write (a : Nat) (v : Byte)
  deriving DecidableEq, Repr

end Sys2Proof

namespace Sys2Proof.Config

/-- What a device answers to a read at a bus address, after the accesses that devices have had, newest first: the open
part of `Bus.read` (R3, R31, R214; log 3). A free value: nothing constrains it, and no two reads of a run have the
same accesses before them. -/
opaque deviceByte : List Access → Nat → Byte

/-- `ADDR_BITS` of R3: the address lines that reach the bus. -/
def addrBits : Nat := 13

/-- `HAS_IRQ` of R3 and R203: the 6507 brings out no IRQ input. -/
def hasIrq : Bool := false

/-- `HAS_NMI` of R3 and R203: the 6507 brings out no NMI input. -/
def hasNmi : Bool := false

/-- `HAS_DECIMAL` of R3: the D flag changes ADC and SBC. -/
def hasDecimal : Bool := true

/-- `VEC_NMI` of R3 and R37. -/
def vecNmi : Word := 0xFFFA

/-- `VEC_RESET` of R3 and R37. -/
def vecReset : Word := 0xFFFC

/-- `VEC_IRQ_BRK` of R3 and R37. -/
def vecIrqBrk : Word := 0xFFFE

/-- `STACK_PAGE` of R3 and R36. -/
def stackPage : Byte := 0x01

/-- What a bus address that nothing has listed reads as: the launch content 0x00 of the base state of
spec/95_test_vectors.md section 2. DESIGN CHOICE, unsafe (log 2): the spec fixes no launch content. -/
def unlistedByte : Byte := 0x00

end Sys2Proof.Config
end

