-- ==== Sys2Proof/Syntax.lean ====
section
/-! DEFINITION. The instructions of the 6507: one constructor for each mnemonic and rule of
spec/opcode_table.json, its addressing mode and operand bytes as arguments (R8, R51, R67; log 18). -/

namespace Sys2Proof

/-- The eight memory modes, each with its operand bytes (R57 to R64). `abs` forms hold `b2:b1`. -/
inductive EaMode where
  /-- `zpg`, R57. -/
  | zpg (b1 : Byte)
  /-- `zpg, X`, R58. -/
  | zpgX (b1 : Byte)
  /-- `zpg, Y`, R59. -/
  | zpgY (b1 : Byte)
  /-- `abs`, R60. -/
  | abs (addr : Word)
  /-- `abs, X`, R61. -/
  | absX (base : Word)
  /-- `abs, Y`, R62. -/
  | absY (base : Word)
  /-- `X, ind`, R63. -/
  | xInd (b1 : Byte)
  /-- `ind, Y`, R64. -/
  | indY (b1 : Byte)
  deriving DecidableEq, Repr

/-- The operand of an instruction that reads one byte: `#` (R56) or a memory mode. -/
inductive ReadOperand where
  /-- `#`, R56. -/
  | imm (b1 : Byte)
  | mem (m : EaMode)
  deriving DecidableEq, Repr

/-- The operand of a shift or rotate: `A` (R55) or a memory byte that is read and written back. -/
inductive RmwOperand where
  /-- `A`, R55. -/
  | acc
  | mem (m : EaMode)
  deriving DecidableEq, Repr

/-- The operand of JMP: `abs` (R60) or `ind` (R66). -/
inductive JmpOperand where
  | abs (target : Word)
  | ind (pointer : Word)
  deriving DecidableEq, Repr

/-- The operand of an undocumented NOP: none, or a memory mode whose byte is read and discarded (R188). -/
inductive NopOperand where
  | impl
  | mem (m : EaMode)
  deriving DecidableEq, Repr

/-- The instructions. A constructor's docstring names its rule. -/
inductive Instr where
  /-- R80 -/
  | lda (o : ReadOperand)
  /-- R81 -/
  | ldx (o : ReadOperand)
  /-- R82 -/
  | ldy (o : ReadOperand)
  /-- R83 -/
  | sta (m : EaMode)
  /-- R84 -/
  | stx (m : EaMode)
  /-- R85 -/
  | sty (m : EaMode)
  /-- R90 -/
  | adc (o : ReadOperand)
  /-- R91 -/
  | sbc (o : ReadOperand)
  /-- R100 -/
  | and (o : ReadOperand)
  /-- R101 -/
  | ora (o : ReadOperand)
  /-- R102 -/
  | eor (o : ReadOperand)
  /-- R103 -/
  | asl (o : RmwOperand)
  /-- R104 -/
  | lsr (o : RmwOperand)
  /-- R105 -/
  | rol (o : RmwOperand)
  /-- R106 -/
  | ror (o : RmwOperand)
  /-- R111 -/
  | bpl (off : Byte)
  /-- R112 -/
  | bmi (off : Byte)
  /-- R113 -/
  | bvc (off : Byte)
  /-- R114 -/
  | bvs (off : Byte)
  /-- R115 -/
  | bcc (off : Byte)
  /-- R116 -/
  | bcs (off : Byte)
  /-- R117 -/
  | bne (off : Byte)
  /-- R118 -/
  | beq (off : Byte)
  /-- R120 -/
  | brk
  /-- R121 -/
  | rti
  /-- R122 -/
  | jsr (target : Word)
  /-- R123 -/
  | rts
  /-- R124 -/
  | jmp (o : JmpOperand)
  /-- R130 -/
  | clc
  /-- R131 -/
  | sec
  /-- R132 -/
  | cli
  /-- R133 -/
  | sei
  /-- R134 -/
  | clv
  /-- R135 -/
  | cld
  /-- R136 -/
  | sed
  /-- R140 -/
  | tax
  /-- R141 -/
  | txa
  /-- R142 -/
  | tay
  /-- R143 -/
  | tya
  /-- R144 -/
  | tsx
  /-- R145 -/
  | txs
  /-- R150 -/
  | pha
  /-- R151 -/
  | pla
  /-- R152 -/
  | php
  /-- R153 -/
  | plp
  /-- R160 -/
  | bit (m : EaMode)
  /-- R161 -/
  | cmp (o : ReadOperand)
  /-- R162 -/
  | cpx (o : ReadOperand)
  /-- R163 -/
  | cpy (o : ReadOperand)
  /-- R165 -/
  | inc (m : EaMode)
  /-- R166 -/
  | dec (m : EaMode)
  /-- R167 -/
  | inx
  /-- R168 -/
  | iny
  /-- R169 -/
  | dex
  /-- R170 -/
  | dey
  /-- R171, the documented NOP 0xEA -/
  | nop
  /-- R180; `op` is which of the eight JAM bytes -/
  | jam (op : Byte)
  /-- R182 -/
  | slo (m : EaMode)
  /-- R183 -/
  | rla (m : EaMode)
  /-- R184 -/
  | sre (m : EaMode)
  /-- R185 -/
  | rra (m : EaMode)
  /-- R186; `op` is 0x0B or 0x2B -/
  | anc (op : Byte) (b1 : Byte)
  /-- R187 -/
  | alr (b1 : Byte)
  /-- R189 -/
  | arr (b1 : Byte)
  /-- R188; `op` is which of the 14 undocumented NOP bytes -/
  | nopUndoc (op : Byte) (o : NopOperand)
  /-- R190; `op` is which of the 53 unlisted bytes -/
  | unlisted (op : Byte)
  deriving DecidableEq, Repr

end Sys2Proof
end

