-- ==== Sys2Proof/WellFormed.lean ====
section
/-! DEFINITION. Which instruction terms the opcode table has: the modes the rule of each instruction
lists, and the opcode bytes of the rows that share one constructor. -/

namespace Sys2Proof

/-- The seven memory modes of the accumulator instructions (R80, R83, R90 and their like): all but `zpg, Y`. -/
def EaMode.isAccMode : EaMode → Bool
  | .zpgY _ => false
  | _ => true

/-- The four memory modes of shifts, rotates, INC and DEC (R103, R165). -/
def EaMode.isRmwMode : EaMode → Bool
  | .zpg _ | .zpgX _ | .abs _ | .absX _ => true
  | _ => false

/-- `zpg` and `abs` (R160, R162, R163). -/
def EaMode.isPlain : EaMode → Bool
  | .zpg _ | .abs _ => true
  | _ => false

/-- The modes of LDX (R81; 0xBE is `abs, Y` by R70). -/
def EaMode.isLdxMode : EaMode → Bool
  | .zpg _ | .zpgY _ | .abs _ | .absY _ => true
  | _ => false

/-- The modes of STX (R84). -/
def EaMode.isStxMode : EaMode → Bool
  | .zpg _ | .zpgY _ | .abs _ => true
  | _ => false

/-- The modes of STY (R85). -/
def EaMode.isStyMode : EaMode → Bool
  | .zpg _ | .zpgX _ | .abs _ => true
  | _ => false

/-- The five modes of RRA that have a row (R185: `abs, X` and `abs, Y` have none). -/
def EaMode.isRraMode : EaMode → Bool
  | .zpg _ | .zpgX _ | .abs _ | .xInd _ | .indY _ => true
  | _ => false

/-- An immediate operand always has a row; a memory operand has one where `ok` says so. -/
def ReadOperand.within (ok : EaMode → Bool) : ReadOperand → Bool
  | .imm _ => true
  | .mem m => ok m

/-- The `A` form always has a row; a memory operand has one where `ok` says so. -/
def RmwOperand.within (ok : EaMode → Bool) : RmwOperand → Bool
  | .acc => true
  | .mem m => ok m

/-- The eight JAM bytes (R180). -/
def jamOpcodes : List Byte := [0x02, 0x12, 0x22, 0x32, 0x42, 0x52, 0x62, 0x72]

/-- The undocumented NOP bytes of each shape (R188). -/
def nopOpcodes : NopOperand → List Byte
  | .impl => [0x1A, 0x3A, 0x5A]
  | .mem (.zpg _) => [0x04, 0x44, 0x64]
  | .mem (.zpgX _) => [0x14, 0x34, 0x54, 0x74]
  | .mem (.abs _) => [0x0C]
  | .mem (.absX _) => [0x1C, 0x3C, 0x5C]
  | .mem _ => []

/-- The 53 bytes with no row (R2, R190). -/
def unlistedOpcodes : List Byte :=
  [0x7A, 0x7B, 0x7C, 0x7F, 0x80, 0x82, 0x83, 0x87, 0x89, 0x8B, 0x8F, 0x92, 0x93, 0x97, 0x9B, 0x9C] ++
  [0x9E, 0x9F, 0xA3, 0xA7, 0xAB, 0xAF, 0xB2, 0xB3, 0xB7, 0xBB, 0xBF, 0xC2, 0xC3, 0xC7, 0xCB, 0xCF] ++
  [0xD2, 0xD3, 0xD4, 0xD7, 0xDA, 0xDB, 0xDC, 0xDF, 0xE2, 0xE3, 0xE7, 0xEB, 0xEF, 0xF2, 0xF3, 0xF4] ++
  [0xF7, 0xFA, 0xFB, 0xFC, 0xFF]

/-- The instruction terms that stand for a row of the opcode table (R67). -/
def Instr.wf : Instr → Bool
  | .lda o | .adc o | .sbc o | .and o | .ora o | .eor o | .cmp o => o.within EaMode.isAccMode
  | .ldx o => o.within EaMode.isLdxMode
  | .ldy o => o.within EaMode.isRmwMode
  | .sta m | .slo m | .rla m | .sre m => m.isAccMode
  | .stx m => m.isStxMode
  | .sty m => m.isStyMode
  | .asl o | .lsr o | .rol o | .ror o => o.within EaMode.isRmwMode
  | .bit m => m.isPlain
  | .cpx o | .cpy o => o.within EaMode.isPlain
  | .inc m | .dec m => m.isRmwMode
  | .rra m => m.isRraMode
  | .jam op => jamOpcodes.contains op
  | .anc op _ => op == 0x0B || op == 0x2B
  | .nopUndoc op o => (nopOpcodes o).contains op
  | .unlisted op => unlistedOpcodes.contains op
  | .bpl _ | .bmi _ | .bvc _ | .bvs _ | .bcc _ | .bcs _ | .bne _ | .beq _ => true
  | .brk | .rti | .jsr _ | .rts | .jmp _ => true
  | .clc | .sec | .cli | .sei | .clv | .cld | .sed => true
  | .tax | .txa | .tay | .tya | .tsx | .txs => true
  | .pha | .pla | .php | .plp => true
  | .inx | .iny | .dex | .dey | .nop | .alr _ | .arr _ => true

end Sys2Proof
end

