-- ==== Sys2Proof/Decode.lean ====
section
/-! DEFINITION. The decoder, written as the 16 by 16 opcode map of R67, and after it the encoder, written
from the Hex columns of the instruction rules. -/

namespace Sys2Proof

/-! ### The opcode map -/

/-- A cell of the opcode map: the instruction the opcode byte selects, waiting for its operand bytes. The
three formats are those of R51; `f3` takes the address `b2:b1` (R60). -/
inductive Row where
  | f1 (i : Instr)
  | f2 (k : Byte → Instr)
  | f3 (k : Word → Instr)

/-- Mode `#` (R56). -/
def Row.imm (k : ReadOperand → Instr) : Row := .f2 fun b1 => k (.imm b1)
/-- Mode `zpg` (R57). -/
def Row.zpg (k : EaMode → Instr) : Row := .f2 fun b1 => k (.zpg b1)
/-- Mode `zpg, X` (R58). -/
def Row.zpgX (k : EaMode → Instr) : Row := .f2 fun b1 => k (.zpgX b1)
/-- Mode `zpg, Y` (R59). -/
def Row.zpgY (k : EaMode → Instr) : Row := .f2 fun b1 => k (.zpgY b1)
/-- Mode `abs` (R60). -/
def Row.abs (k : EaMode → Instr) : Row := .f3 fun w => k (.abs w)
/-- Mode `abs, X` (R61). -/
def Row.absX (k : EaMode → Instr) : Row := .f3 fun w => k (.absX w)
/-- Mode `abs, Y` (R62). -/
def Row.absY (k : EaMode → Instr) : Row := .f3 fun w => k (.absY w)
/-- Mode `X, ind` (R63). -/
def Row.xInd (k : EaMode → Instr) : Row := .f2 fun b1 => k (.xInd b1)
/-- Mode `ind, Y` (R64). -/
def Row.indY (k : EaMode → Instr) : Row := .f2 fun b1 => k (.indY b1)
/-- A JAM byte (R180). -/
def Row.jam (op : Byte) : Row := .f1 (.jam op)
/-- A byte with no row in the source (R190). -/
def Row.unlisted (op : Byte) : Row := .f1 (.unlisted op)

/-- An instruction that reads its operand, in a memory mode. -/
def readMem (k : ReadOperand → Instr) (m : EaMode) : Instr := k (.mem m)
/-- A shift or rotate, in a memory mode. -/
def rmwMem (k : RmwOperand → Instr) (m : EaMode) : Instr := k (.mem m)
/-- An undocumented NOP, in a memory mode. -/
def nopMem (op : Byte) (m : EaMode) : Instr := .nopUndoc op (.mem m)

/-- Row `0x` of the grid of R67. -/
def gridRow0 : List Row :=
  [.f1 .brk, .xInd (readMem .ora), .jam 0x02, .xInd .slo,
   .zpg (nopMem 0x04), .zpg (readMem .ora), .zpg (rmwMem .asl), .zpg .slo,
   .f1 .php, .imm .ora, .f1 (.asl .acc), .f2 (.anc 0x0B),
   .abs (nopMem 0x0C), .abs (readMem .ora), .abs (rmwMem .asl), .abs .slo]

/-- Row `1x` of the grid of R67. -/
def gridRow1 : List Row :=
  [.f2 .bpl, .indY (readMem .ora), .jam 0x12, .indY .slo,
   .zpgX (nopMem 0x14), .zpgX (readMem .ora), .zpgX (rmwMem .asl), .zpgX .slo,
   .f1 .clc, .absY (readMem .ora), .f1 (.nopUndoc 0x1A .impl), .absY .slo,
   .absX (nopMem 0x1C), .absX (readMem .ora), .absX (rmwMem .asl), .absX .slo]

/-- Row `2x` of the grid of R67. -/
def gridRow2 : List Row :=
  [.f3 .jsr, .xInd (readMem .and), .jam 0x22, .xInd .rla,
   .zpg .bit, .zpg (readMem .and), .zpg (rmwMem .rol), .zpg .rla,
   .f1 .plp, .imm .and, .f1 (.rol .acc), .f2 (.anc 0x2B),
   .abs .bit, .abs (readMem .and), .abs (rmwMem .rol), .abs .rla]

/-- Row `3x` of the grid of R67. -/
def gridRow3 : List Row :=
  [.f2 .bmi, .indY (readMem .and), .jam 0x32, .indY .rla,
   .zpgX (nopMem 0x34), .zpgX (readMem .and), .zpgX (rmwMem .rol), .zpgX .rla,
   .f1 .sec, .absY (readMem .and), .f1 (.nopUndoc 0x3A .impl), .absY .rla,
   .absX (nopMem 0x3C), .absX (readMem .and), .absX (rmwMem .rol), .absX .rla]

/-- Row `4x` of the grid of R67. -/
def gridRow4 : List Row :=
  [.f1 .rti, .xInd (readMem .eor), .jam 0x42, .xInd .sre,
   .zpg (nopMem 0x44), .zpg (readMem .eor), .zpg (rmwMem .lsr), .zpg .sre,
   .f1 .pha, .imm .eor, .f1 (.lsr .acc), .f2 .alr,
   .f3 fun w => .jmp (.abs w), .abs (readMem .eor), .abs (rmwMem .lsr), .abs .sre]

/-- Row `5x` of the grid of R67. -/
def gridRow5 : List Row :=
  [.f2 .bvc, .indY (readMem .eor), .jam 0x52, .indY .sre,
   .zpgX (nopMem 0x54), .zpgX (readMem .eor), .zpgX (rmwMem .lsr), .zpgX .sre,
   .f1 .cli, .absY (readMem .eor), .f1 (.nopUndoc 0x5A .impl), .absY .sre,
   .absX (nopMem 0x5C), .absX (readMem .eor), .absX (rmwMem .lsr), .absX .sre]

/-- Row `6x` of the grid of R67. -/
def gridRow6 : List Row :=
  [.f1 .rts, .xInd (readMem .adc), .jam 0x62, .xInd .rra,
   .zpg (nopMem 0x64), .zpg (readMem .adc), .zpg (rmwMem .ror), .zpg .rra,
   .f1 .pla, .imm .adc, .f1 (.ror .acc), .f2 .arr,
   .f3 fun w => .jmp (.ind w), .abs (readMem .adc), .abs (rmwMem .ror), .abs .rra]

/-- Row `7x` of the grid of R67. -/
def gridRow7 : List Row :=
  [.f2 .bvs, .indY (readMem .adc), .jam 0x72, .indY .rra,
   .zpgX (nopMem 0x74), .zpgX (readMem .adc), .zpgX (rmwMem .ror), .zpgX .rra,
   .f1 .sei, .absY (readMem .adc), .unlisted 0x7A, .unlisted 0x7B,
   .unlisted 0x7C, .absX (readMem .adc), .absX (rmwMem .ror), .unlisted 0x7F]

/-- Row `8x` of the grid of R67. -/
def gridRow8 : List Row :=
  [.unlisted 0x80, .xInd .sta, .unlisted 0x82, .unlisted 0x83,
   .zpg .sty, .zpg .sta, .zpg .stx, .unlisted 0x87,
   .f1 .dey, .unlisted 0x89, .f1 .txa, .unlisted 0x8B,
   .abs .sty, .abs .sta, .abs .stx, .unlisted 0x8F]

/-- Row `9x` of the grid of R67. -/
def gridRow9 : List Row :=
  [.f2 .bcc, .indY .sta, .unlisted 0x92, .unlisted 0x93,
   .zpgX .sty, .zpgX .sta, .zpgY .stx, .unlisted 0x97,
   .f1 .tya, .absY .sta, .f1 .txs, .unlisted 0x9B,
   .unlisted 0x9C, .absX .sta, .unlisted 0x9E, .unlisted 0x9F]

/-- Row `Ax` of the grid of R67. -/
def gridRowA : List Row :=
  [.imm .ldy, .xInd (readMem .lda), .imm .ldx, .unlisted 0xA3,
   .zpg (readMem .ldy), .zpg (readMem .lda), .zpg (readMem .ldx), .unlisted 0xA7,
   .f1 .tay, .imm .lda, .f1 .tax, .unlisted 0xAB,
   .abs (readMem .ldy), .abs (readMem .lda), .abs (readMem .ldx), .unlisted 0xAF]

/-- Row `Bx` of the grid of R67. -/
def gridRowB : List Row :=
  [.f2 .bcs, .indY (readMem .lda), .unlisted 0xB2, .unlisted 0xB3,
   .zpgX (readMem .ldy), .zpgX (readMem .lda), .zpgY (readMem .ldx), .unlisted 0xB7,
   .f1 .clv, .absY (readMem .lda), .f1 .tsx, .unlisted 0xBB,
   .absX (readMem .ldy), .absX (readMem .lda), .absY (readMem .ldx), .unlisted 0xBF]

/-- Row `Cx` of the grid of R67. -/
def gridRowC : List Row :=
  [.imm .cpy, .xInd (readMem .cmp), .unlisted 0xC2, .unlisted 0xC3,
   .zpg (readMem .cpy), .zpg (readMem .cmp), .zpg .dec, .unlisted 0xC7,
   .f1 .iny, .imm .cmp, .f1 .dex, .unlisted 0xCB,
   .abs (readMem .cpy), .abs (readMem .cmp), .abs .dec, .unlisted 0xCF]

/-- Row `Dx` of the grid of R67. -/
def gridRowD : List Row :=
  [.f2 .bne, .indY (readMem .cmp), .unlisted 0xD2, .unlisted 0xD3,
   .unlisted 0xD4, .zpgX (readMem .cmp), .zpgX .dec, .unlisted 0xD7,
   .f1 .cld, .absY (readMem .cmp), .unlisted 0xDA, .unlisted 0xDB,
   .unlisted 0xDC, .absX (readMem .cmp), .absX .dec, .unlisted 0xDF]

/-- Row `Ex` of the grid of R67. -/
def gridRowE : List Row :=
  [.imm .cpx, .xInd (readMem .sbc), .unlisted 0xE2, .unlisted 0xE3,
   .zpg (readMem .cpx), .zpg (readMem .sbc), .zpg .inc, .unlisted 0xE7,
   .f1 .inx, .imm .sbc, .f1 .nop, .unlisted 0xEB,
   .abs (readMem .cpx), .abs (readMem .sbc), .abs .inc, .unlisted 0xEF]

/-- Row `Fx` of the grid of R67. -/
def gridRowF : List Row :=
  [.f2 .beq, .indY (readMem .sbc), .unlisted 0xF2, .unlisted 0xF3,
   .unlisted 0xF4, .zpgX (readMem .sbc), .zpgX .inc, .unlisted 0xF7,
   .f1 .sed, .absY (readMem .sbc), .unlisted 0xFA, .unlisted 0xFB,
   .unlisted 0xFC, .absX (readMem .sbc), .absX .inc, .unlisted 0xFF]

/-- The opcode map of R67, high nibble down, low nibble across. -/
def opcodeGrid : List (List Row) :=
  [gridRow0, gridRow1, gridRow2, gridRow3, gridRow4, gridRow5, gridRow6, gridRow7,
   gridRow8, gridRow9, gridRowA, gridRowB, gridRowC, gridRowD, gridRowE, gridRowF]

/-- The cell an opcode byte selects (R51: all eight bits together, and nothing else). -/
def opcodeRow (op : Byte) : Row :=
  (opcodeGrid.getD (op.toNat / 16) []).getD (op.toNat % 16) (.unlisted op)

/-! ### The decoder -/

/-- Why a list of bytes is no instruction: it ends too soon. Every opcode byte has a cell. -/
inductive DecodeError where
  /-- There is no opcode byte. -/
  | noOpcode
  /-- The operand bytes that the opcode `op` takes are not all there. -/
  | truncated (op : Byte)
  deriving DecidableEq, Repr

/-- Decodes the first instruction of a list of bytes and gives the bytes after it (R51, R53). -/
def decode : List Byte → Except DecodeError (Instr × List Byte)
  | [] => .error .noOpcode
  | op :: rest =>
    match opcodeRow op, rest with
    | .f1 i, rest => .ok (i, rest)
    | .f2 k, b1 :: rest => .ok (k b1, rest)
    | .f3 k, b1 :: b2 :: rest => .ok (k (hilo b2 b1), rest)
    | _, _ => .error (.truncated op)

/-- The instruction read from an instruction word of spec/opcode_table.json, the first byte in bits 7
to 0; the bits above `nbits` are 0. -/
def decodeTableWord (nbits w : Nat) : Option Instr :=
  let v := w % 2 ^ nbits
  match decode [BitVec.ofNat 8 v, BitVec.ofNat 8 (v / 256), BitVec.ofNat 8 (v / 65536)] with
  | .ok (i, _) => some i
  | .error _ => none

/-! ### Lengths and tiers -/

/-- The length in bytes of an instruction in a memory mode (R53). -/
def EaMode.len : EaMode → Nat
  | .zpg _ | .zpgX _ | .zpgY _ | .xInd _ | .indY _ => 2
  | .abs _ | .absX _ | .absY _ => 3

/-- The length of an instruction with a read operand (R53). -/
def ReadOperand.len : ReadOperand → Nat
  | .imm _ => 2
  | .mem m => m.len

/-- The length of a shift or rotate (R53). -/
def RmwOperand.len : RmwOperand → Nat
  | .acc => 1
  | .mem m => m.len

/-- The length of an undocumented NOP (R53, R188). -/
def NopOperand.len : NopOperand → Nat
  | .impl => 1
  | .mem m => m.len

/-- The Bytes entry of an instruction (R51, R53); 1 for JAM (R180) and, for want of an entry, for an
unlisted byte. BRK's is 1 (spec/90_conflicts.md C5). -/
def Instr.len : Instr → Nat
  | .lda o | .ldx o | .ldy o | .adc o | .sbc o | .and o | .ora o | .eor o => o.len
  | .cmp o | .cpx o | .cpy o => o.len
  | .sta m | .stx m | .sty m | .bit m | .inc m | .dec m => m.len
  | .slo m | .rla m | .sre m | .rra m => m.len
  | .asl o | .lsr o | .rol o | .ror o => o.len
  | .nopUndoc _ o => o.len
  | .bpl _ | .bmi _ | .bvc _ | .bvs _ | .bcc _ | .bcs _ | .bne _ | .beq _ => 2
  | .anc _ _ | .alr _ | .arr _ => 2
  | .jsr _ | .jmp _ => 3
  | .brk | .rti | .rts => 1
  | .clc | .sec | .cli | .sei | .clv | .cld | .sed => 1
  | .tax | .txa | .tay | .tya | .tsx | .txs => 1
  | .pha | .pla | .php | .plp => 1
  | .inx | .iny | .dex | .dey | .nop => 1
  | .jam _ | .unlisted _ => 1

/-- The tier of an instruction (R2). -/
def Instr.tier : Instr → Nat
  | .jam _ | .slo _ | .rla _ | .sre _ | .rra _ | .anc _ _ | .alr _ | .arr _ | .nopUndoc _ _ => 2
  | .unlisted _ => 3
  | .lda _ | .ldx _ | .ldy _ | .sta _ | .stx _ | .sty _ | .adc _ | .sbc _ => 1
  | .and _ | .ora _ | .eor _ | .asl _ | .lsr _ | .rol _ | .ror _ => 1
  | .bpl _ | .bmi _ | .bvc _ | .bvs _ | .bcc _ | .bcs _ | .bne _ | .beq _ => 1
  | .brk | .rti | .jsr _ | .rts | .jmp _ => 1
  | .clc | .sec | .cli | .sei | .clv | .cld | .sed => 1
  | .tax | .txa | .tay | .tya | .tsx | .txs => 1
  | .pha | .pla | .php | .plp => 1
  | .bit _ | .cmp _ | .cpx _ | .cpy _ | .inc _ | .dec _ => 1
  | .inx | .iny | .dex | .dey | .nop => 1

/-! ### The encoder -/

/-- The opcodes of an instruction in each memory mode, in the order zpg, zpg X, zpg Y, abs, abs X, abs Y,
X ind, ind Y; `none` where the table has no row. -/
structure MemOpcodes where
  zpg : Option Byte := none
  zpgX : Option Byte := none
  zpgY : Option Byte := none
  abs : Option Byte := none
  absX : Option Byte := none
  absY : Option Byte := none
  xInd : Option Byte := none
  indY : Option Byte := none

/-- The opcode of a memory mode. -/
def EaMode.opcode (t : MemOpcodes) : EaMode → Option Byte
  | .zpg _ => t.zpg
  | .zpgX _ => t.zpgX
  | .zpgY _ => t.zpgY
  | .abs _ => t.abs
  | .absX _ => t.absX
  | .absY _ => t.absY
  | .xInd _ => t.xInd
  | .indY _ => t.indY

/-- The opcode of a read operand, `imm` that of mode `#`. -/
def ReadOperand.opcode (imm : Byte) (t : MemOpcodes) : ReadOperand → Option Byte
  | .imm _ => some imm
  | .mem m => m.opcode t

/-- The opcode of a shift or rotate, `acc` that of mode `A`. -/
def RmwOperand.opcode (acc : Byte) (t : MemOpcodes) : RmwOperand → Option Byte
  | .acc => some acc
  | .mem m => m.opcode t

/-- The Hex cell of an instruction's row; `none` for a term that no row stands for. -/
def Instr.opcode : Instr → Option Byte
  | .lda o => o.opcode 0xA9
      { zpg := some 0xA5, zpgX := some 0xB5, abs := some 0xAD, absX := some 0xBD,
        absY := some 0xB9, xInd := some 0xA1, indY := some 0xB1 }
  | .ldx o => o.opcode 0xA2 { zpg := some 0xA6, zpgY := some 0xB6, abs := some 0xAE, absY := some 0xBE }
  | .ldy o => o.opcode 0xA0 { zpg := some 0xA4, zpgX := some 0xB4, abs := some 0xAC, absX := some 0xBC }
  | .sta m => m.opcode
      { zpg := some 0x85, zpgX := some 0x95, abs := some 0x8D, absX := some 0x9D,
        absY := some 0x99, xInd := some 0x81, indY := some 0x91 }
  | .stx m => m.opcode { zpg := some 0x86, zpgY := some 0x96, abs := some 0x8E }
  | .sty m => m.opcode { zpg := some 0x84, zpgX := some 0x94, abs := some 0x8C }
  | .adc o => o.opcode 0x69
      { zpg := some 0x65, zpgX := some 0x75, abs := some 0x6D, absX := some 0x7D,
        absY := some 0x79, xInd := some 0x61, indY := some 0x71 }
  | .sbc o => o.opcode 0xE9
      { zpg := some 0xE5, zpgX := some 0xF5, abs := some 0xED, absX := some 0xFD,
        absY := some 0xF9, xInd := some 0xE1, indY := some 0xF1 }
  | .and o => o.opcode 0x29
      { zpg := some 0x25, zpgX := some 0x35, abs := some 0x2D, absX := some 0x3D,
        absY := some 0x39, xInd := some 0x21, indY := some 0x31 }
  | .ora o => o.opcode 0x09
      { zpg := some 0x05, zpgX := some 0x15, abs := some 0x0D, absX := some 0x1D,
        absY := some 0x19, xInd := some 0x01, indY := some 0x11 }
  | .eor o => o.opcode 0x49
      { zpg := some 0x45, zpgX := some 0x55, abs := some 0x4D, absX := some 0x5D,
        absY := some 0x59, xInd := some 0x41, indY := some 0x51 }
  | .asl o => o.opcode 0x0A { zpg := some 0x06, zpgX := some 0x16, abs := some 0x0E, absX := some 0x1E }
  | .lsr o => o.opcode 0x4A { zpg := some 0x46, zpgX := some 0x56, abs := some 0x4E, absX := some 0x5E }
  | .rol o => o.opcode 0x2A { zpg := some 0x26, zpgX := some 0x36, abs := some 0x2E, absX := some 0x3E }
  | .ror o => o.opcode 0x6A { zpg := some 0x66, zpgX := some 0x76, abs := some 0x6E, absX := some 0x7E }
  | .bit m => m.opcode { zpg := some 0x24, abs := some 0x2C }
  | .cmp o => o.opcode 0xC9
      { zpg := some 0xC5, zpgX := some 0xD5, abs := some 0xCD, absX := some 0xDD,
        absY := some 0xD9, xInd := some 0xC1, indY := some 0xD1 }
  | .cpx o => o.opcode 0xE0 { zpg := some 0xE4, abs := some 0xEC }
  | .cpy o => o.opcode 0xC0 { zpg := some 0xC4, abs := some 0xCC }
  | .inc m => m.opcode { zpg := some 0xE6, zpgX := some 0xF6, abs := some 0xEE, absX := some 0xFE }
  | .dec m => m.opcode { zpg := some 0xC6, zpgX := some 0xD6, abs := some 0xCE, absX := some 0xDE }
  | .slo m => m.opcode
      { zpg := some 0x07, zpgX := some 0x17, abs := some 0x0F, absX := some 0x1F,
        absY := some 0x1B, xInd := some 0x03, indY := some 0x13 }
  | .rla m => m.opcode
      { zpg := some 0x27, zpgX := some 0x37, abs := some 0x2F, absX := some 0x3F,
        absY := some 0x3B, xInd := some 0x23, indY := some 0x33 }
  | .sre m => m.opcode
      { zpg := some 0x47, zpgX := some 0x57, abs := some 0x4F, absX := some 0x5F,
        absY := some 0x5B, xInd := some 0x43, indY := some 0x53 }
  | .rra m => m.opcode
      { zpg := some 0x67, zpgX := some 0x77, abs := some 0x6F, xInd := some 0x63,
        indY := some 0x73 }
  | .bpl _ => some 0x10
  | .bmi _ => some 0x30
  | .bvc _ => some 0x50
  | .bvs _ => some 0x70
  | .bcc _ => some 0x90
  | .bcs _ => some 0xB0
  | .bne _ => some 0xD0
  | .beq _ => some 0xF0
  | .brk => some 0x00
  | .rti => some 0x40
  | .rts => some 0x60
  | .clc => some 0x18
  | .sec => some 0x38
  | .cli => some 0x58
  | .sei => some 0x78
  | .clv => some 0xB8
  | .cld => some 0xD8
  | .sed => some 0xF8
  | .tax => some 0xAA
  | .txa => some 0x8A
  | .tay => some 0xA8
  | .tya => some 0x98
  | .tsx => some 0xBA
  | .txs => some 0x9A
  | .pha => some 0x48
  | .pla => some 0x68
  | .php => some 0x08
  | .plp => some 0x28
  | .inx => some 0xE8
  | .iny => some 0xC8
  | .dex => some 0xCA
  | .dey => some 0x88
  | .nop => some 0xEA
  | .jsr _ => some 0x20
  | .jmp (.abs _) => some 0x4C
  | .jmp (.ind _) => some 0x6C
  | .alr _ => some 0x4B
  | .arr _ => some 0x6B
  | .jam op => if jamOpcodes.contains op then some op else none
  | .anc op _ => if op == 0x0B || op == 0x2B then some op else none
  | .nopUndoc op o => if (nopOpcodes o).contains op then some op else none
  | .unlisted op => if unlistedOpcodes.contains op then some op else none

/-- The operand bytes of a memory mode, an address low byte first (R32, R51). -/
def EaMode.operandBytes : EaMode → List Byte
  | .zpg b1 | .zpgX b1 | .zpgY b1 | .xInd b1 | .indY b1 => [b1]
  | .abs w | .absX w | .absY w => [loByte w, hiByte w]

/-- The operand bytes of a read operand. -/
def ReadOperand.operandBytes : ReadOperand → List Byte
  | .imm b1 => [b1]
  | .mem m => m.operandBytes

/-- The operand bytes of a shift or rotate. -/
def RmwOperand.operandBytes : RmwOperand → List Byte
  | .acc => []
  | .mem m => m.operandBytes

/-- The operand bytes of an undocumented NOP. -/
def NopOperand.operandBytes : NopOperand → List Byte
  | .impl => []
  | .mem m => m.operandBytes

/-- The bytes after the opcode (R51). -/
def Instr.operandBytes : Instr → List Byte
  | .lda o | .ldx o | .ldy o | .adc o | .sbc o | .and o | .ora o | .eor o => o.operandBytes
  | .cmp o | .cpx o | .cpy o => o.operandBytes
  | .sta m | .stx m | .sty m | .bit m | .inc m | .dec m => m.operandBytes
  | .slo m | .rla m | .sre m | .rra m => m.operandBytes
  | .asl o | .lsr o | .rol o | .ror o => o.operandBytes
  | .nopUndoc _ o => o.operandBytes
  | .bpl b1 | .bmi b1 | .bvc b1 | .bvs b1 | .bcc b1 | .bcs b1 | .bne b1 | .beq b1 => [b1]
  | .anc _ b1 | .alr b1 | .arr b1 => [b1]
  | .jsr w | .jmp (.abs w) | .jmp (.ind w) => [loByte w, hiByte w]
  | .brk | .rti | .rts => []
  | .clc | .sec | .cli | .sei | .clv | .cld | .sed => []
  | .tax | .txa | .tay | .tya | .tsx | .txs => []
  | .pha | .pla | .php | .plp => []
  | .inx | .iny | .dex | .dey | .nop => []
  | .jam _ | .unlisted _ => []

/-- The bytes of a well-formed instruction; no bytes for a term that no row stands for. -/
def encode (i : Instr) : List Byte :=
  match i.opcode with
  | some op => op :: i.operandBytes
  | none => []

end Sys2Proof
end

