-- ==== Sys2Proof/Machine/State.lean ====
section
/-! DEFINITION. The state of the 6507 as the spec gives it (R10 to R20), the reasons a step can stop, and
the state after reset. -/

namespace Sys2Proof.Machine

/-- The processor status: six independent flags (R14). Bits 5 and 4 of the pushed byte are no state. -/
structure Flags where
  /-- Negative. -/
  n : Bool
  /-- Overflow. -/
  v : Bool
  /-- Decimal mode. -/
  d : Bool
  /-- Interrupt disable. -/
  i : Bool
  /-- Zero. -/
  z : Bool
  /-- Carry. -/
  c : Bool
  deriving DecidableEq, Repr

/-- The bytes behind the 13 address lines (R31, R38): pairs of bus address and byte, addresses rising,
no pair equal to what an unlisted address reads as (`Memory.wf` of Machine/Ops.lean). -/
abbrev Memory := List Host.Cell

/-- What a platform may have at a bus address (R3, R31, R37). -/
inductive Location where
  /-- Read and write memory, the whole of the default `Bus` (R38). -/
  | ram
  /-- Memory that a write does not change. -/
  | rom
  /-- Anything else: a device register, a location whose read has a side effect, or nothing at all. -/
  | device
  deriving DecidableEq, Repr

/-- The bus addresses `first` to `last` of a platform hold locations of one kind. -/
structure Region where
  first : Nat
  last : Nat
  kind : Location
  deriving DecidableEq, Repr

/-- The OPEN parameter `Bus` of R3, its instance and its state as data (D4, log 3). -/
structure Bus where
  /-- The instance: the platform's map, the first region that holds an address deciding and RAM where none does. Fixed for
  a run; no region is the default instance of R38. -/
  regions : List Region
  /-- The bytes of RAM and ROM. -/
  mem : Memory
  /-- The accesses that devices have had, newest first: the state of the devices. -/
  events : List Access
  deriving DecidableEq, Repr

/-- The whole state of the one agent (spec/10_state.md), and the open parameters `Bus` and
`ADMIT_UNDOCUMENTED`. -/
structure State where
  /-- `A`, the accumulator (R10). -/
  a : Byte
  /-- `X` (R11). -/
  x : Byte
  /-- `Y` (R11). -/
  y : Byte
  /-- `S`, the stack pointer (R12). -/
  sp : Byte
  /-- `PC` (R13). -/
  pc : Word
  /-- `N V D I Z C` (R14). -/
  p : Flags
  /-- The CPU has executed a JAM (R18). -/
  jammed : Bool
  /-- `ADMIT_UNDOCUMENTED` (R3, R181): the MODEL's field, fixed for a run (log 4). -/
  admitUndocumented : Bool
  /-- The platform behind the address lines (R3, R31, R38). -/
  bus : Bus
  deriving DecidableEq, Repr

/-- Why a step stops with a fault. -/
inductive Fault where
  /-- Raised by `step` while `jammed` is 1: the agent is stuck and has no step (R18, R50, R180). Safe:
  the spec gives the CPU no step there, and only a reset ends it. -/
  | jammed
  deriving DecidableEq, Repr

/-- Why a step has no meaning. -/
inductive Refusal where
  /-- Raised by an arm of `exec` whose instruction has no meaning yet; no arm does. Safe. -/
  | notModelled (mnemonic : String)
  /-- Raised by the 53 opcode bytes with no row (R190). Safe: the spec refuses them always. -/
  | unlistedOpcode (op : Byte)
  /-- Raised by `step` for a tier-2 instruction where `ADMIT_UNDOCUMENTED` is false (R50, R181). Safe. -/
  | undocumentedNotAdmitted
  /-- Raised by ARR with D = 1 (R189). Safe: the spec refuses that case. -/
  | arrDecimal
  deriving DecidableEq, Repr

/-- The outcome of a step of the 6507. -/
abbrev Out := Host.Outcome State Fault Refusal

/-- The machine right after reset (R20, R220), with the default `Bus` (R38) listing nothing. I is 1, `jammed` 0 and PC the
word at `VEC_RESET`. A, X, Y, S, N, V, D, Z and C are unspecified by the spec: DESIGN CHOICE, unsafe
(log 1), the values of draw 2 of spec/95_test_vectors.md section 3. The word at `VEC_RESET` is 0x0000 and
`admitUndocumented` true by DESIGN CHOICE (log 2, log 4). -/
def State.reset : State where
  a := 0x01
  x := 0x02
  y := 0x03
  sp := 0x00
  pc := 0x0000
  p := { n := false, v := false, d := false, i := true, z := false, c := false }
  jammed := false
  admitUndocumented := true
  bus := { regions := [], mem := [], events := [] }

end Sys2Proof.Machine
end

