-- ==== Sys2Proof/Machine/Ops.lean ====
section
/-! DEFINITION. The named operations over bus, memory, stack, flags and registers, and taking a trap and
returning from one. A read is two operations: the byte it returns, and the state after it, which differs only where a
device was read. -/

namespace Sys2Proof.Machine

/-! ### Memory (R31, R38) -/

/-- The byte at a bus address: the one listed, or the launch content of an unlisted address (log 2). -/
def Memory.read : Memory → Nat → Byte
  | [], _ => Config.unlistedByte
  | (k, v) :: m, addr => if k = addr then v else Memory.read m addr

/-- Puts a byte that is not the unlisted one before the first higher address. -/
def Memory.insert (addr : Nat) (v : Byte) : Memory → Memory
  | [] => [(addr, v)]
  | (k, w) :: m => if addr < k then (addr, v) :: (k, w) :: m else (k, w) :: Memory.insert addr v m

/-- `mem[addr := v]` of R38, keeping the canonical form. -/
def Memory.write (m : Memory) (addr : Nat) (v : Byte) : Memory :=
  let others := m.filter fun cell => cell.1 != addr
  if v = Config.unlistedByte then others else Memory.insert addr v others

/-- The number of bus addresses (R31). -/
def busSize : Nat := 2 ^ Config.addrBits

/-- The addresses of the list rise strictly, starting above or at `low`. -/
def Memory.risingFrom : Nat → Memory → Bool
  | _, [] => true
  | low, (k, _) :: m => decide (low ≤ k) && Memory.risingFrom (k + 1) m

/-- The canonical form: addresses strictly rising, all of them bus addresses, and no pair equal to what an
unlisted address reads as. -/
def Memory.wf (m : Memory) : Bool :=
  Memory.risingFrom 0 m && m.all fun cell => decide (cell.1 < busSize) && cell.2 != Config.unlistedByte

/-! ### The platform (R3, R31, R38) -/

/-- The region holds the bus address. -/
def Region.holds (r : Region) (a : Nat) : Bool := decide (r.first ≤ a) && decide (a ≤ r.last)

/-- What the platform has at a bus address: RAM where no region holds it (R38). -/
def Bus.locationAt (b : Bus) (a : Nat) : Location :=
  match b.regions.find? fun r => r.holds a with
  | some r => r.kind
  | none => .ram

/-- `Bus.read : bus state x address -> byte x bus state` of R3. RAM and ROM answer without side effect (R38); a
device answers a free value and has had one more access. -/
def Bus.read (b : Bus) (a : Nat) : Byte × Bus :=
  match b.locationAt a with
  | .ram | .rom => (b.mem.read a, b)
  | .device => (Config.deviceByte b.events a, { b with events := .read a :: b.events })

/-- `Bus.write : bus state x address x byte -> bus state` of R3. ROM keeps its byte. -/
def Bus.write (b : Bus) (a : Nat) (v : Byte) : Bus :=
  match b.locationAt a with
  | .ram => { b with mem := b.mem.write a v }
  | .rom => b
  | .device => { b with events := .write a v :: b.events }

/-- Puts a byte into the launch content of a location, ROM included; no access (log 5). -/
def Bus.load (b : Bus) (a : Nat) (v : Byte) : Bus := { b with mem := b.mem.write a v }

/-- What one access does to the bus. -/
def Bus.apply (b : Bus) : Access → Bus
  | .read a => (b.read a).2
  | .write a v => b.write a v

/-- What a list of accesses does to the bus, first to last (R39, R40). -/
def Bus.replay (b : Bus) (l : List Access) : Bus := l.foldl Bus.apply b

/-! ### Accesses of the core (R31) -/

/-- `baddr = addr[ADDR_BITS-1:0]` of R31: internal address bits 15 to 13 never leave the chip. -/
def busAddr (addr : Word) : Nat := addr.toNat % busSize

/-- The byte that `MemRead(addr, 1)` of R31 returns. -/
def State.memRead (s : State) (addr : Word) : Byte := (s.bus.read (busAddr addr)).1

/-- The state after `MemRead(addr, 1)` of R31. -/
def State.afterRead (s : State) (addr : Word) : State := { s with bus := (s.bus.read (busAddr addr)).2 }

/-- `MemWrite(addr, 1, v)` of R31. -/
def State.memWrite (s : State) (addr : Word) (v : Byte) : State :=
  { s with bus := s.bus.write (busAddr addr) v }

/-- The word that a read at `lo`, then a read at `hi`, gives (R32). -/
def State.readPair (s : State) (lo hi : Word) : Word := hilo ((s.afterRead lo).memRead hi) (s.memRead lo)

/-- The state after a read at `lo`, then a read at `hi`. -/
def State.afterPair (s : State) (lo hi : Word) : State := (s.afterRead lo).afterRead hi

/-! ### The program counter (R13, R50) -/

/-- `PC <- pc0 +_16 len`. -/
def State.advance (s : State) (len : Nat) : State := { s with pc := s.pc + BitVec.ofNat 16 len }

/-- `PC <- target`. -/
def State.jump (s : State) (target : Word) : State := { s with pc := target }

/-! ### Registers and flags -/

/-- `SetNZ(v)` of R7. -/
def Flags.setNZ (p : Flags) (v : Byte) : Flags := { p with n := v.msb, z := v == 0 }

/-- `A <- v; SetNZ(v)`. -/
def State.loadA (s : State) (v : Byte) : State := { s with a := v, p := s.p.setNZ v }

/-- `X <- v; SetNZ(v)`. -/
def State.loadX (s : State) (v : Byte) : State := { s with x := v, p := s.p.setNZ v }

/-- `Y <- v; SetNZ(v)`. -/
def State.loadY (s : State) (v : Byte) : State := { s with y := v, p := s.p.setNZ v }

/-- Writes the flags alone. -/
def State.setFlags (s : State) (p : Flags) : State := { s with p := p }

/-! ### The status byte (R15, R16) -/

/-- `PByte(b)` of R15. -/
def Flags.toByte (p : Flags) (b : Bool) : Byte :=
  BitVec.ofBool p.n ++ BitVec.ofBool p.v ++ 1#1 ++ BitVec.ofBool b ++
    BitVec.ofBool p.d ++ BitVec.ofBool p.i ++ BitVec.ofBool p.z ++ BitVec.ofBool p.c

/-- `SetP(v)` of R16: bits 5 and 4 are discarded. -/
def Flags.ofByte (v : Byte) : Flags where
  n := v.getLsbD 7
  v := v.getLsbD 6
  d := v.getLsbD 3
  i := v.getLsbD 2
  z := v.getLsbD 1
  c := v.getLsbD 0

/-! ### The stack (R36) -/

/-- `0x01:S`. -/
def stackAddr (sp : Byte) : Word := hilo Config.stackPage sp

/-- `Push(v)`. -/
def State.push (s : State) (v : Byte) : State :=
  { s.memWrite (stackAddr s.sp) v with sp := s.sp - 1 }

/-- The state after `Pull()`: `S <- S +_8 1; MemRead(0x01:S, 1)`. The byte pulled is `s.pulled`. -/
def State.pull (s : State) : State := { s.afterRead (stackAddr (s.sp + 1)) with sp := s.sp + 1 }

/-- The byte that `Pull()` returns: the one at `0x01:S` for the new S. -/
def State.pulled (s : State) : Byte := s.memRead (stackAddr (s.sp + 1))

/-- `Push(w[15:8]); Push(w[7:0])` (R32 e: the high byte first). -/
def State.push16 (s : State) (w : Word) : State := (s.push (hiByte w)).push (loByte w)

/-- The word that `lo <- Pull(); hi <- Pull()` gives. -/
def State.pulled16 (s : State) : Word := hilo s.pull.pulled s.pulled

/-- The state after two pulls. -/
def State.pull16 (s : State) : State := s.pull.pull

/-! ### Taking a trap and returning from one (R201, R204, R206, R207) -/

/-- Trap entry, one operation for BRK (R201) and for an interrupt of a core that has the inputs (R204):
pushes the return address, high byte first, and `PByte(b)` of the flags before the entry, sets I, and loads PC with
`Read16(vector)` of R7, low byte first. Nothing else changes: A, X, Y, N, V, D, Z, C. -/
def State.enterTrap (s : State) (ret : Word) (b : Bool) (vector : Word) : State :=
  let saved := (s.push16 ret).push (s.p.toByte b)
  { saved.afterPair vector (vector + 1) with
    p := { s.p with i := true }
    pc := saved.readPair vector (vector + 1) }

/-- `raise Brk(pc0)` of R201, `pc0` the program counter: the return address is `pc0 +_16 2`. -/
def State.raiseBrk (s : State) : State := s.enterTrap (s.pc + 2) true Config.vecIrqBrk

/-- The return from a trap (R207, R121): the flags from the pulled byte, then the address pulled low byte
first, as it is. -/
def State.returnFromTrap (s : State) : State :=
  { s.pull.pull16 with p := Flags.ofByte s.pulled, pc := s.pull.pulled16 }

end Sys2Proof.Machine
end

