-- ==== Sys2Proof/Machine/Flags.lean ====
section
/-! DEFINITION. The pure functions that compute results and flags: binary and decimal addition and
subtraction (R92 to R95), compares (R164), and the one-bit shifts and rotates (R103 to R106). -/

namespace Sys2Proof.Machine

/-- What an addition or subtraction returns: `(r, n, v, z, c')` of R92. -/
structure ArithResult where
  r : Byte
  n : Bool
  v : Bool
  z : Bool
  c : Bool
  deriving DecidableEq, Repr

/-- `adc_bin(a, m, c)` of R92. -/
def adcBin (a m : Byte) (c : Bool) : ArithResult :=
  let t := a.toNat + m.toNat + c.toNat
  let r := BitVec.ofNat 8 t
  { r := r
    n := r.msb
    v := ((a ^^^ r) &&& (m ^^^ r)).msb
    z := r == 0
    c := decide (0x100 ≤ t) }

/-- The low digit of a packed BCD byte. -/
def lowDigit (b : Byte) : Nat := b.toNat % 16

/-- The high nibble of a byte in place, `b & 0xF0`. -/
def highNibble (b : Byte) : Nat := b.toNat / 16 * 16

/-- `bcd_adc(a, m, c)` of R93: N and V are taken before the tens digit is adjusted, Z from the binary sum. -/
def bcdAdc (a m : Byte) (c : Bool) : ArithResult :=
  let units := lowDigit a + lowDigit m + c.toNat
  let al := if 0x0A ≤ units then (units + 0x06) % 16 + 0x10 else units
  let t := highNibble a + highNibble m + al
  let tb := BitVec.ofNat 8 t
  let adjusted := if 0xA0 ≤ t then t + 0x60 else t
  { r := BitVec.ofNat 8 adjusted
    n := tb.msb
    v := ((a ^^^ tb) &&& (m ^^^ tb)).msb
    z := BitVec.ofNat 8 (a.toNat + m.toNat + c.toNat) == 0
    c := decide (0x100 ≤ adjusted) }

/-- `sbc_bin(a, m, c)` of R94. -/
def sbcBin (a m : Byte) (c : Bool) : ArithResult := adcBin a (m ^^^ 0xFF) c

/-- `bcd_sbc(a, m, c)` of R95, the result byte alone, in unbounded integers. -/
def bcdSbc (a m : Byte) (c : Bool) : Byte :=
  let units : Int := lowDigit a - lowDigit m + c.toNat - 1
  let al := if units < 0 then (units - 0x06) % 16 - 0x10 else units
  let t : Int := highNibble a - highNibble m + al
  let adjusted := if t < 0 then t - 0x60 else t
  BitVec.ofInt 8 adjusted

/-- What ADC computes (R90): decimal when D is set. -/
def adcResult (d : Bool) (a m : Byte) (c : Bool) : ArithResult :=
  if d && Config.hasDecimal then bcdAdc a m c else adcBin a m c

/-- What SBC computes (R91): the flags of the binary subtraction always, the result decimal when D is set. -/
def sbcResult (d : Bool) (a m : Byte) (c : Bool) : ArithResult :=
  if d && Config.hasDecimal then { sbcBin a m c with r := bcdSbc a m c } else sbcBin a m c

/-- `N <- n; V <- v; Z <- z; C <- c`. -/
def Flags.setArith (p : Flags) (q : ArithResult) : Flags :=
  { p with n := q.n, v := q.v, z := q.z, c := q.c }

/-- The flags after `Compare(r, m)` of R164: V and D play no part. -/
def Flags.compare (p : Flags) (r m : Byte) : Flags :=
  { p with n := (r - m).msb, z := r == m, c := decide (m.toNat ≤ r.toNat) }

/-- The flags after `BIT` (R160): N and V are the operand's bits 7 and 6. -/
def Flags.bitTest (p : Flags) (a m : Byte) : Flags :=
  { p with n := m.getLsbD 7, v := m.getLsbD 6, z := a &&& m == 0 }

/-- A shifted byte and the bit that leaves it. -/
structure ShiftResult where
  r : Byte
  c : Bool
  deriving DecidableEq, Repr

/-- ASL (R103): bit 0 becomes 0, bit 7 leaves. The carry in is not used. -/
def shiftAsl (v : Byte) (_c : Bool) : ShiftResult := { r := v <<< 1, c := v.getLsbD 7 }

/-- LSR (R104): bit 7 becomes 0, bit 0 leaves. The carry in is not used. -/
def shiftLsr (v : Byte) (_c : Bool) : ShiftResult := { r := v >>> 1, c := v.getLsbD 0 }

/-- ROL (R105): the old carry enters bit 0, bit 7 leaves. -/
def shiftRol (v : Byte) (c : Bool) : ShiftResult :=
  { r := v <<< 1 ||| (BitVec.ofBool c).setWidth 8, c := v.getLsbD 7 }

/-- ROR (R106): the old carry enters bit 7, bit 0 leaves. -/
def shiftRor (v : Byte) (c : Bool) : ShiftResult :=
  { r := v >>> 1 ||| (BitVec.ofBool c).setWidth 8 <<< 7, c := v.getLsbD 0 }

/-- `SetNZ(r); C <- c` for a shift. -/
def Flags.setShift (p : Flags) (q : ShiftResult) : Flags := { p.setNZ q.r with c := q.c }

end Sys2Proof.Machine
end

