-- ==== Sys2Proof/Machine/Operands.lean ====
section
/-! DEFINITION. The operand forms: effective addresses, operand bytes and page crossings of R55 to R66, the state
after the reads that they take, and the shared ways an instruction uses an operand. -/

namespace Sys2Proof.Machine

/-- `EA` of R57 to R64. -/
def State.ea (s : State) : EaMode → Word
  | .zpg b1 => hilo 0 b1
  | .zpgX b1 => hilo 0 (b1 + s.x)
  | .zpgY b1 => hilo 0 (b1 + s.y)
  | .abs w => w
  | .absX w => w + s.x.setWidth 16
  | .absY w => w + s.y.setWidth 16
  | .xInd b1 =>
    let zp := b1 + s.x
    s.readPair (hilo 0 zp) (hilo 0 (zp + 1))
  | .indY b1 => s.readPair (hilo 0 b1) (hilo 0 (b1 + 1)) + s.y.setWidth 16

/-- The state once `EA` is known: the indirect modes have read their pointer, low byte first (R63, R64). -/
def State.afterEa (s : State) : EaMode → State
  | .zpg _ | .zpgX _ | .zpgY _ | .abs _ | .absX _ | .absY _ => s
  | .xInd b1 =>
    let zp := b1 + s.x
    s.afterPair (hilo 0 zp) (hilo 0 (zp + 1))
  | .indY b1 => s.afterPair (hilo 0 b1) (hilo 0 (b1 + 1))

/-- `Crossed` of R57 to R64: adding the index carried out of the low address byte. Timing only. -/
def State.crossed (s : State) : EaMode → Bool
  | .zpg _ | .zpgX _ | .zpgY _ | .abs _ | .xInd _ => false
  | .absX w => decide (0x100 ≤ (loByte w).toNat + s.x.toNat)
  | .absY w => decide (0x100 ≤ (loByte w).toNat + s.y.toNat)
  | .indY b1 => decide (0x100 ≤ (s.memRead (hilo 0 b1)).toNat + s.y.toNat)

/-- `Operand` of a memory mode (R57 to R64): the byte at `EA`, read after the pointer. -/
def State.byteAt (s : State) (m : EaMode) : Byte := (s.afterEa m).memRead (s.ea m)

/-- The state after the byte at `EA` is read. -/
def State.afterByteAt (s : State) (m : EaMode) : State := (s.afterEa m).afterRead (s.ea m)

/-- The state after a byte is written to `EA` without being read first (R83). -/
def State.storeAt (s : State) (m : EaMode) (v : Byte) : State := (s.afterEa m).memWrite (s.ea m) v

/-- The state after the byte at `EA` is read and then `v` written there: one read, one write (R35). `EA` is
computed once. -/
def State.updateAt (s : State) (m : EaMode) (v : Byte) : State := (s.afterByteAt m).memWrite (s.ea m) v

/-- `Operand` of R56 to R64. -/
def State.operand (s : State) : ReadOperand → Byte
  | .imm b1 => b1
  | .mem m => s.byteAt m

/-- The state after the operand is read. -/
def State.afterOperand (s : State) : ReadOperand → State
  | .imm _ => s
  | .mem m => s.afterByteAt m

/-- The state after an undocumented NOP has read the operand byte that its memory forms discard (R188). -/
def State.afterNopOperand (s : State) : NopOperand → State
  | .impl => s
  | .mem m => s.afterByteAt m

/-- `Target` of mode `rel` (R65), `pc0` the program counter. -/
def State.relTarget (s : State) (off : Byte) : Word := s.pc + 2 + off.signExtend 16

/-- Where JMP goes (R60, R66, R124): the pointer's page byte is not incremented. -/
def State.jmpTarget (s : State) : JmpOperand → Word
  | .abs w => w
  | .ind w => s.readPair w (hilo (hiByte w) (loByte w + 1))

/-- The state after JMP has read its pointer, which the form `ind` alone has. -/
def State.afterJmpTarget (s : State) : JmpOperand → State
  | .abs _ => s
  | .ind w => s.afterPair w (hilo (hiByte w) (loByte w + 1))

/-- The body of the eight branches (R110). -/
def State.branch (s : State) (cond : Bool) (off : Byte) : State :=
  if cond then s.jump (s.relTarget off) else s.advance 2

/-- The body of a shift or rotate (R103 to R106): A, or the byte at `EA`, which is read and written back. -/
def State.shift (s : State) (f : Byte → Bool → ShiftResult) : RmwOperand → State
  | .acc =>
    let q := f s.a s.p.c
    { s with a := q.r, p := s.p.setShift q }
  | .mem m =>
    let q := f (s.byteAt m) s.p.c
    (s.updateAt m q.r).setFlags (s.p.setShift q)

/-- The body of INC and DEC (R165, R166). -/
def State.modify (s : State) (f : Byte → Byte) (m : EaMode) : State :=
  let r := f (s.byteAt m)
  (s.updateAt m r).setFlags (s.p.setNZ r)

/-- `Compare(r, m)` of R164. -/
def State.compare (s : State) (r m : Byte) : State := s.setFlags (s.p.compare r m)

/-- `A`, N, V, Z and C from the result of an addition or subtraction. -/
def State.setArith (s : State) (q : ArithResult) : State :=
  { s with a := q.r, p := s.p.setArith q }

/-- The body of the combinations of R182 to R184: shifts the memory byte, writes it back, combines it with
A, and takes N and Z from A and C from the shift. -/
def State.shiftCombine (s : State) (f : Byte → Bool → ShiftResult) (g : Byte → Byte → Byte)
    (m : EaMode) : State :=
  let q := f (s.byteAt m) s.p.c
  let r := g s.a q.r
  { s.updateAt m q.r with a := r, p := { s.p.setNZ r with c := q.c } }

end Sys2Proof.Machine
end

