-- ==== Sys2Proof/Machine/Arithmetic.lean ====
section
/-! DEFINITION. The meanings of ADC and SBC (spec/41_arithmetic.md, R90, R91). Every meaning is
run with PC at `pc0`, the address of the opcode, and moves it itself (R50; log 20). -/

namespace Sys2Proof.Machine

/-- R90: `A + operand + C`, decimal when D is set. -/
def execAdc (o : ReadOperand) (s : State) : Out :=
  .next (((s.afterOperand o).setArith (adcResult s.p.d s.a (s.operand o) s.p.c)).advance o.len)

/-- R91: `A - operand - (1 - C)`, the result decimal when D is set. -/
def execSbc (o : ReadOperand) (s : State) : Out :=
  .next (((s.afterOperand o).setArith (sbcResult s.p.d s.a (s.operand o) s.p.c)).advance o.len)

end Sys2Proof.Machine
end

