-- ==== Sys2Proof/Machine/Bitwise.lean ====
section
/-! DEFINITION. The meanings of AND ORA EOR ASL LSR ROL ROR (spec/42_bitwise.md, R100 to R106). Every meaning is
run with PC at `pc0`, the address of the opcode, and moves it itself (R50; log 20). -/

namespace Sys2Proof.Machine

/-- R100. -/
def execAnd (o : ReadOperand) (s : State) : Out :=
  .next (((s.afterOperand o).loadA (s.a &&& s.operand o)).advance o.len)

/-- R101. -/
def execOra (o : ReadOperand) (s : State) : Out :=
  .next (((s.afterOperand o).loadA (s.a ||| s.operand o)).advance o.len)

/-- R102. -/
def execEor (o : ReadOperand) (s : State) : Out :=
  .next (((s.afterOperand o).loadA (s.a ^^^ s.operand o)).advance o.len)

/-- R103. -/
def execAsl (o : RmwOperand) (s : State) : Out :=
  .next ((s.shift shiftAsl o).advance o.len)

/-- R104. -/
def execLsr (o : RmwOperand) (s : State) : Out :=
  .next ((s.shift shiftLsr o).advance o.len)

/-- R105. -/
def execRol (o : RmwOperand) (s : State) : Out :=
  .next ((s.shift shiftRol o).advance o.len)

/-- R106. -/
def execRor (o : RmwOperand) (s : State) : Out :=
  .next ((s.shift shiftRor o).advance o.len)

end Sys2Proof.Machine
end

