-- ==== Sys2Proof/Machine/Branch.lean ====
section
/-! DEFINITION. The meanings of the eight branches (spec/43_branch.md, R110 to R118). Every meaning is
run with PC at `pc0`, the address of the opcode, and moves it itself (R50; log 20). -/

namespace Sys2Proof.Machine

/-- R111: N = 0. -/
def execBpl (off : Byte) (s : State) : Out :=
  .next (s.branch (!s.p.n) off)

/-- R112: N = 1. -/
def execBmi (off : Byte) (s : State) : Out :=
  .next (s.branch s.p.n off)

/-- R113: V = 0. -/
def execBvc (off : Byte) (s : State) : Out :=
  .next (s.branch (!s.p.v) off)

/-- R114: V = 1. -/
def execBvs (off : Byte) (s : State) : Out :=
  .next (s.branch s.p.v off)

/-- R115: C = 0. -/
def execBcc (off : Byte) (s : State) : Out :=
  .next (s.branch (!s.p.c) off)

/-- R116: C = 1. -/
def execBcs (off : Byte) (s : State) : Out :=
  .next (s.branch s.p.c off)

/-- R117: Z = 0. -/
def execBne (off : Byte) (s : State) : Out :=
  .next (s.branch (!s.p.z) off)

/-- R118: Z = 1. -/
def execBeq (off : Byte) (s : State) : Out :=
  .next (s.branch s.p.z off)

end Sys2Proof.Machine
end

