-- ==== Sys2Proof/Machine/Control.lean ====
section
/-! DEFINITION. The meanings of BRK RTI JSR RTS JMP (spec/44_control.md, R120 to R124). Every meaning is
run with PC at `pc0`, the address of the opcode, and moves it itself (R50; log 20). -/

namespace Sys2Proof.Machine

/-- R120: takes the BRK trap (R201), whatever I holds. The address pushed is `pc0 + 2`, not `pc0 + 1`. -/
def execBrk (s : State) : Out :=
  .next s.raiseBrk

/-- R121: returns from a trap (R207); the address pulled is used as it is. -/
def execRti (s : State) : Out :=
  .next s.returnFromTrap

/-- R122: pushes the address of its own last byte, high byte first. The low byte of the target was read before
the pushes; the high byte is read from `pc0 +_16 2` after them, and only there (log 6), so that a push onto it is
seen. -/
def execJsr (target : Word) (s : State) : Out :=
  let pushed := s.push16 (s.pc + 2)
  .next ((pushed.afterRead (s.pc + 2)).jump (hilo (pushed.memRead (s.pc + 2)) (loByte target)))

/-- R123: `PC <- (hi:lo) +_16 1`. -/
def execRts (s : State) : Out :=
  .next (s.pull16.jump (s.pulled16 + 1))

/-- R124: both forms. -/
def execJmp (o : JmpOperand) (s : State) : Out :=
  .next ((s.afterJmpTarget o).jump (s.jmpTarget o))

end Sys2Proof.Machine
end

