-- ==== Sys2Proof/Machine/LoadStore.lean ====
section
/-! DEFINITION. The meanings of LDA LDX LDY STA STX STY (spec/40_load_store.md, R80 to R85). Every meaning is
run with PC at `pc0`, the address of the opcode, and moves it itself (R50; log 20). -/

namespace Sys2Proof.Machine

/-- R80: `A <- Operand; SetNZ`. -/
def execLda (o : ReadOperand) (s : State) : Out :=
  .next (((s.afterOperand o).loadA (s.operand o)).advance o.len)

/-- R81: `X <- Operand; SetNZ`. The indexed forms index by Y (R70). -/
def execLdx (o : ReadOperand) (s : State) : Out :=
  .next (((s.afterOperand o).loadX (s.operand o)).advance o.len)

/-- R82: `Y <- Operand; SetNZ`. -/
def execLdy (o : ReadOperand) (s : State) : Out :=
  .next (((s.afterOperand o).loadY (s.operand o)).advance o.len)

/-- R83: `MemWrite(EA, 1, A)`; no flag. -/
def execSta (m : EaMode) (s : State) : Out :=
  .next ((s.storeAt m s.a).advance m.len)

/-- R84: `MemWrite(EA, 1, X)`; no flag. -/
def execStx (m : EaMode) (s : State) : Out :=
  .next ((s.storeAt m s.x).advance m.len)

/-- R85: `MemWrite(EA, 1, Y)`; no flag. -/
def execSty (m : EaMode) (s : State) : Out :=
  .next ((s.storeAt m s.y).advance m.len)

end Sys2Proof.Machine
end

