-- ==== Sys2Proof/Machine/Stack.lean ====
section
/-! DEFINITION. The meanings of PHA PLA PHP PLP (spec/47_stack.md, R150 to R153). Every meaning is
run with PC at `pc0`, the address of the opcode, and moves it itself (R50; log 20). -/

namespace Sys2Proof.Machine

/-- R150. -/
def execPha (s : State) : Out :=
  .next ((s.push s.a).advance 1)

/-- R151. -/
def execPla (s : State) : Out :=
  .next ((s.pull.loadA s.pulled).advance 1)

/-- R152: pushes `PByte(1)`. -/
def execPhp (s : State) : Out :=
  .next ((s.push (s.p.toByte true)).advance 1)

/-- R153: `SetP(Pull())`. -/
def execPlp (s : State) : Out :=
  .next ((s.pull.setFlags (Flags.ofByte s.pulled)).advance 1)

end Sys2Proof.Machine
end

