-- ==== Sys2Proof/Machine/StatusFlags.lean ====
section
/-! DEFINITION. The meanings of CLC SEC CLI SEI CLV CLD SED (spec/45_flags.md, R130 to R136). Every meaning is
run with PC at `pc0`, the address of the opcode, and moves it itself (R50; log 20). -/

namespace Sys2Proof.Machine

/-- R130: `C <- 0`. -/
def execClc (s : State) : Out :=
  .next ((s.setFlags { s.p with c := false }).advance 1)

/-- R131: `C <- 1`. -/
def execSec (s : State) : Out :=
  .next ((s.setFlags { s.p with c := true }).advance 1)

/-- R132: `I <- 0`. -/
def execCli (s : State) : Out :=
  .next ((s.setFlags { s.p with i := false }).advance 1)

/-- R133: `I <- 1`. -/
def execSei (s : State) : Out :=
  .next ((s.setFlags { s.p with i := true }).advance 1)

/-- R134: `V <- 0`. -/
def execClv (s : State) : Out :=
  .next ((s.setFlags { s.p with v := false }).advance 1)

/-- R135: `D <- 0`. -/
def execCld (s : State) : Out :=
  .next ((s.setFlags { s.p with d := false }).advance 1)

/-- R136: `D <- 1`. -/
def execSed (s : State) : Out :=
  .next ((s.setFlags { s.p with d := true }).advance 1)

end Sys2Proof.Machine
end

