-- ==== Sys2Proof/Machine/Transfer.lean ====
section
/-! DEFINITION. The meanings of TAX TXA TAY TYA TSX TXS (spec/46_transfer.md, R140 to R145). Every meaning is
run with PC at `pc0`, the address of the opcode, and moves it itself (R50; log 20). -/

namespace Sys2Proof.Machine

/-- R140. -/
def execTax (s : State) : Out :=
  .next ((s.loadX s.a).advance 1)

/-- R141. -/
def execTxa (s : State) : Out :=
  .next ((s.loadA s.x).advance 1)

/-- R142. -/
def execTay (s : State) : Out :=
  .next ((s.loadY s.a).advance 1)

/-- R143. -/
def execTya (s : State) : Out :=
  .next ((s.loadA s.y).advance 1)

/-- R144. -/
def execTsx (s : State) : Out :=
  .next ((s.loadX s.sp).advance 1)

/-- R145: writes no flag. -/
def execTxs (s : State) : Out :=
  .next ({ s with sp := s.x }.advance 1)

end Sys2Proof.Machine
end

