-- ==== Sys2Proof/Machine/Undocumented.lean ====
section
/-! DEFINITION. The meanings of the rows marked illegal-opcode, in force where `ADMIT_UNDOCUMENTED`
holds, which `step` checks (R50, R181), and of the unlisted bytes (spec/49_undocumented.md, R180 to R190). Every meaning is
run with PC at `pc0`, the address of the opcode, and moves it itself (R50; log 20). -/

namespace Sys2Proof.Machine

/-- R180: `jammed <- 1` and nothing else; PC stays at `pc0` (log 7). -/
def execJam (_op : Byte) (s : State) : Out :=
  .next { s with jammed := true }

/-- R182: ASL, store, ORA. -/
def execSlo (m : EaMode) (s : State) : Out :=
  .next ((s.shiftCombine shiftAsl (fun a r => a ||| r) m).advance m.len)

/-- R183: ROL with the old C, store, AND. -/
def execRla (m : EaMode) (s : State) : Out :=
  .next ((s.shiftCombine shiftRol (fun a r => a &&& r) m).advance m.len)

/-- R184: LSR, store, EOR. -/
def execSre (m : EaMode) (s : State) : Out :=
  .next ((s.shiftCombine shiftLsr (fun a r => a ^^^ r) m).advance m.len)

/-- R185: ROR with the old C, store, then ADC of the new byte with the bit rotated out as carry in. -/
def execRra (m : EaMode) (s : State) : Out :=
  let q := shiftRor (s.byteAt m) s.p.c
  .next (((s.updateAt m q.r).setArith (adcResult s.p.d s.a q.r q.c)).advance m.len)

/-- R186: `A & b1`, N and Z of it, C a copy of its bit 7; both opcodes alike. -/
def execAnc (_op : Byte) (b1 : Byte) (s : State) : Out :=
  let r := s.a &&& b1
  .next ({ s with a := r, p := { s.p.setNZ r with c := r.msb } }.advance 2)

/-- R187: AND, then LSR of the result. -/
def execAlr (b1 : Byte) (s : State) : Out :=
  let q := shiftLsr (s.a &&& b1) s.p.c
  .next ({ s with a := q.r, p := s.p.setShift q }.advance 2)

/-- R189: AND, then ROR of the result with the old C; C is bit 6 and V bit 6 xor bit 5 of the new A. With D = 1
the rule refuses (log 8). -/
def execArr (b1 : Byte) (s : State) : Out :=
  if s.p.d && Config.hasDecimal then .refused .arrDecimal
  else
    let r := (shiftRor (s.a &&& b1) s.p.c).r
    let p := { s.p.setNZ r with c := r.getLsbD 6, v := r.getLsbD 6 ^^ r.getLsbD 5 }
    .next ({ s with a := r, p := p }.advance 2)

/-- R188: a memory form reads its operand byte and discards it; nothing but PC changes in the core. -/
def execNopUndoc (_op : Byte) (o : NopOperand) (s : State) : Out :=
  .next ((s.afterNopOperand o).advance o.len)

/-- R190: no meaning, whatever `ADMIT_UNDOCUMENTED` is (log 9). -/
def execUnlisted (op : Byte) (_s : State) : Out :=
  .refused (.unlistedOpcode op)

end Sys2Proof.Machine
end

