-- ==== Sys2Proof/Machine/Ungrouped.lean ====
section
/-! DEFINITION. The meanings of BIT CMP CPX CPY INC DEC INX INY DEX DEY NOP (spec/48_ungrouped.md, R160 to R171). Every meaning is
run with PC at `pc0`, the address of the opcode, and moves it itself (R50; log 20). -/

namespace Sys2Proof.Machine

/-- R160. -/
def execBit (m : EaMode) (s : State) : Out :=
  .next (((s.afterByteAt m).setFlags (s.p.bitTest s.a (s.byteAt m))).advance m.len)

/-- R161. -/
def execCmp (o : ReadOperand) (s : State) : Out :=
  .next (((s.afterOperand o).compare s.a (s.operand o)).advance o.len)

/-- R162. -/
def execCpx (o : ReadOperand) (s : State) : Out :=
  .next (((s.afterOperand o).compare s.x (s.operand o)).advance o.len)

/-- R163. -/
def execCpy (o : ReadOperand) (s : State) : Out :=
  .next (((s.afterOperand o).compare s.y (s.operand o)).advance o.len)

/-- R165. -/
def execInc (m : EaMode) (s : State) : Out :=
  .next ((s.modify (fun v => v + 1) m).advance m.len)

/-- R166. -/
def execDec (m : EaMode) (s : State) : Out :=
  .next ((s.modify (fun v => v - 1) m).advance m.len)

/-- R167. -/
def execInx (s : State) : Out :=
  .next ((s.loadX (s.x + 1)).advance 1)

/-- R168. -/
def execIny (s : State) : Out :=
  .next ((s.loadY (s.y + 1)).advance 1)

/-- R169. -/
def execDex (s : State) : Out :=
  .next ((s.loadX (s.x - 1)).advance 1)

/-- R170. -/
def execDey (s : State) : Out :=
  .next ((s.loadY (s.y - 1)).advance 1)

/-- R171: nothing but PC changes. -/
def execNop (s : State) : Out :=
  .next (s.advance 1)

end Sys2Proof.Machine
end

