-- ==== Sys2Proof/Machine/Fetch.lean ====
section
/-! DEFINITION. Fetching an instruction at PC (R50, R51, R53), whether tier 2 is admitted (R181), and
placing an instruction where the next step fetches it. -/

namespace Sys2Proof.Machine

/-- The bytes that reads at PC, PC + 1 and PC + 2, in that order, return; an instruction takes one to three. -/
def State.bytesAtPc (s : State) : List Byte :=
  let first := s.afterRead s.pc
  [s.memRead s.pc, first.memRead (s.pc + 1), (first.afterRead (s.pc + 1)).memRead (s.pc + 2)]

/-- The instruction at PC: its opcode byte and the operand bytes its format takes (R50, R51). The third byte of a JSR
is only looked at here; its rule reads it, after its pushes (log 6). -/
def State.fetch (s : State) : Instr :=
  let first := s.afterRead s.pc
  match opcodeRow (s.memRead s.pc) with
  | .f1 i => i
  | .f2 k => k (first.memRead (s.pc + 1))
  | .f3 k => k (first.readPair (s.pc + 1) (s.pc + 2))

/-- How many bytes a step reads before it performs the body of the instruction's rule (R50): all of them but for
JSR, whose body reads its third. -/
def fetchLength : Instr → Nat
  | .jsr _ => 2
  | i => i.len

/-- The addresses a step reads before the body, in order (R39, R50). -/
def State.fetchAddrs (s : State) (i : Instr) : List Word :=
  (List.range (fetchLength i)).map fun k => s.pc + BitVec.ofNat 16 k

/-- The state after reads at the addresses, first to last. -/
def State.afterReads (s : State) (l : List Word) : State := l.foldl State.afterRead s

/-- The state in which the body of the instruction's rule begins: its bytes have been read. -/
def State.afterFetch (s : State) : State := s.afterReads (s.fetchAddrs s.fetch)

/-- Whether the step may run the instruction: tier 2 only under `ADMIT_UNDOCUMENTED` (R50, R181). Tier 3 is
refused by its own meaning (R190). -/
def State.admits (s : State) (i : Instr) : Bool := i.tier != 2 || s.admitUndocumented

/-- Puts the first three bytes of a little-endian word into the launch content at PC. -/
def State.storeAtPc (s : State) (w : Nat) : State :=
  let b0 := s.bus.load (busAddr s.pc) (BitVec.ofNat 8 w)
  let b1 := b0.load (busAddr (s.pc + 1)) (BitVec.ofNat 8 (w / 256))
  { s with bus := b1.load (busAddr (s.pc + 2)) (BitVec.ofNat 8 (w / 65536)) }

end Sys2Proof.Machine
end

