-- ==== Sys2Proof/Machine/Step.lean ====
section
/-! DEFINITION. One step of the agent (R50). -/

namespace Sys2Proof.Machine

/-- Fetches the instruction at PC and runs it in the state after the fetch (R50). A jammed CPU has no step (R18);
tier 2 is refused where it is not admitted (R181). On the 6507 no interrupt is polled before it (R50, R203;
Machine/Interrupt.lean). -/
def step (s : State) : Host.Outcome State Fault Refusal :=
  if s.jammed then .fault .jammed
  else if s.admits s.fetch then exec s.fetch s.afterFetch
  else .refused .undocumentedNotAdmitted

/-- `s` with the instruction word `w` of `nbits` bits, the bits above them 0, as the content of memory at PC, where the
next step fetches (log 5). -/
def State.withFetchWord (s : State) (nbits w : Nat) : State := s.storeAtPc (w % 2 ^ nbits)

end Sys2Proof.Machine
end

