-- ==== Sys2Proof/Machine/BusTrace.lean ====
section
/-! DEFINITION. The bus accesses of an instruction in the order its rule lists them (R5, R39): the opcode
byte, the operand bytes, the pointer reads, the data read, then the data write or the stack accesses. The
further accesses of R228 are not in it, as the spec leaves them out (log 11). -/

namespace Sys2Proof.Machine

/-- A read of the core, as the platform sees it (R31). -/
def readOf (addr : Word) : Access := .read (busAddr addr)

/-- A write of the core, as the platform sees it (R31). -/
def writeOf (addr : Word) (v : Byte) : Access := .write (busAddr addr) v

/-- The reads of the opcode byte and of the operand bytes that come before the body of the rule (R50). -/
def State.fetchAccesses (s : State) (i : Instr) : List Access := (s.fetchAddrs i).map readOf

/-- The pointer reads of the indirect modes, low byte first (R63, R64). -/
def State.pointerAccesses (s : State) : EaMode → List Access
  | .xInd b1 => [readOf (hilo 0 (b1 + s.x)), readOf (hilo 0 (b1 + s.x + 1))]
  | .indY b1 => [readOf (hilo 0 b1), readOf (hilo 0 (b1 + 1))]
  | .zpg _ | .zpgX _ | .zpgY _ | .abs _ | .absX _ | .absY _ => []

/-- Pointer reads, data read. -/
def State.readAccesses (s : State) (m : EaMode) : List Access := s.pointerAccesses m ++ [readOf (s.ea m)]

/-- The accesses of a read operand. -/
def State.operandAccesses (s : State) : ReadOperand → List Access
  | .imm _ => []
  | .mem m => s.readAccesses m

/-- Pointer reads, data write; the byte at `EA` is not read (R83). -/
def State.storeAccesses (s : State) (m : EaMode) (v : Byte) : List Access :=
  s.pointerAccesses m ++ [writeOf (s.ea m) v]

/-- One read, then one write of the new byte (R35). -/
def State.modifyAccesses (s : State) (m : EaMode) (f : Byte → Byte) : List Access :=
  s.readAccesses m ++ [writeOf (s.ea m) (f (s.byteAt m))]

/-- The accesses of a shift or rotate. -/
def State.shiftAccesses (s : State) (f : Byte → Bool → ShiftResult) : RmwOperand → List Access
  | .acc => []
  | .mem m => s.modifyAccesses m fun v => (f v s.p.c).r

/-- The two writes of a pushed word, high byte first (R32 e). -/
def State.push16Accesses (s : State) (w : Word) : List Access :=
  [writeOf (stackAddr s.sp) (hiByte w), writeOf (stackAddr (s.sp - 1)) (loByte w)]

/-- The accesses of trap entry (R201). -/
def State.trapAccesses (s : State) (ret : Word) (b : Bool) (vector : Word) : List Access :=
  s.push16Accesses ret ++
    [writeOf (stackAddr (s.sp - 1 - 1)) (s.p.toByte b), readOf vector, readOf (vector + 1)]

/-- The accesses of the body of an instruction's rule, in the state after the fetch (R39). -/
def State.bodyAccesses (s : State) : Instr → List Access
  | .lda o | .ldx o | .ldy o | .adc o | .sbc o | .and o | .ora o | .eor o => s.operandAccesses o
  | .cmp o | .cpx o | .cpy o => s.operandAccesses o
  | .bit m => s.readAccesses m
  | .sta m => s.storeAccesses m s.a
  | .stx m => s.storeAccesses m s.x
  | .sty m => s.storeAccesses m s.y
  | .asl o => s.shiftAccesses shiftAsl o
  | .lsr o => s.shiftAccesses shiftLsr o
  | .rol o => s.shiftAccesses shiftRol o
  | .ror o => s.shiftAccesses shiftRor o
  | .inc m => s.modifyAccesses m fun v => v + 1
  | .dec m => s.modifyAccesses m fun v => v - 1
  | .slo m => s.modifyAccesses m fun v => (shiftAsl v s.p.c).r
  | .rla m => s.modifyAccesses m fun v => (shiftRol v s.p.c).r
  | .sre m => s.modifyAccesses m fun v => (shiftLsr v s.p.c).r
  | .rra m => s.modifyAccesses m fun v => (shiftRor v s.p.c).r
  | .bpl _ | .bmi _ | .bvc _ | .bvs _ | .bcc _ | .bcs _ | .bne _ | .beq _ => []
  | .brk => s.trapAccesses (s.pc + 2) true Config.vecIrqBrk
  | .rti =>
      [readOf (stackAddr (s.sp + 1)), readOf (stackAddr (s.sp + 1 + 1)), readOf (stackAddr (s.sp + 1 + 1 + 1))]
  | .jsr _ => s.push16Accesses (s.pc + 2) ++ [readOf (s.pc + 2)]
  | .rts => [readOf (stackAddr (s.sp + 1)), readOf (stackAddr (s.sp + 1 + 1))]
  | .jmp (.abs _) => []
  | .jmp (.ind w) => [readOf w, readOf (hilo (hiByte w) (loByte w + 1))]
  | .pha => [writeOf (stackAddr s.sp) s.a]
  | .php => [writeOf (stackAddr s.sp) (s.p.toByte true)]
  | .pla | .plp => [readOf (stackAddr (s.sp + 1))]
  | .clc | .sec | .cli | .sei | .clv | .cld | .sed => []
  | .tax | .txa | .tay | .tya | .tsx | .txs => []
  | .inx | .iny | .dex | .dey | .nop => []
  | .anc _ _ | .alr _ | .arr _ => []
  | .nopUndoc _ .impl => []
  | .nopUndoc _ (.mem m) => s.readAccesses m
  | .jam _ | .unlisted _ => []

/-- All accesses of the step that runs the instruction at PC: the fetch, then the body (R39, R50). -/
def State.accesses (s : State) : List Access := s.fetchAccesses s.fetch ++ s.afterFetch.bodyAccesses s.fetch

end Sys2Proof.Machine
end

