-- ==== Sys2Proof/Machine/Interrupt.lean ====
section
/-! DEFINITION. The core's interrupt mechanism (R204), for a core that has the inputs. It is not in force for
the 6507, whose `HAS_IRQ` and `HAS_NMI` are false (R203; log 13): `stepWithLines` is then `step`. -/

namespace Sys2Proof.Machine

/-- The interrupt inputs at an instruction boundary. -/
structure InterruptLines where
  /-- A falling edge on NMI has been latched since the last NMI entry. -/
  nmiLatched : Bool
  /-- The IRQ input is asserted. -/
  irqAsserted : Bool
  deriving DecidableEq, Repr

/-- NMI entry (R204): the next instruction's address, `PByte(0)`, `VEC_NMI`. -/
def State.takeNmi (s : State) : State := s.enterTrap s.pc false Config.vecNmi

/-- IRQ entry (R204): the next instruction's address, `PByte(0)`, `VEC_IRQ_BRK`. -/
def State.takeIrq (s : State) : State := s.enterTrap s.pc false Config.vecIrqBrk

/-- The poll at an instruction boundary (R204, R205): NMI first, then IRQ unless I is set. DESIGN CHOICE (log 13) on the
three fine points that R204 makes no rules of and leaves open: the poll takes I as it stands at the boundary, so a CLI,
SEI or PLP just before it counts at once; a taken branch does not delay it; and the entry that is begun is finished, so
an NMI redirects neither a BRK nor an IRQ entry. -/
def State.pollInterrupts (s : State) (hasNmi hasIrq : Bool) (l : InterruptLines) : Option State :=
  if hasNmi && l.nmiLatched then some s.takeNmi
  else if hasIrq && l.irqAsserted && !s.p.i then some s.takeIrq
  else none

/-- The step of a core with the inputs given: the poll comes before the fetch (R50), and nothing releases a
jammed core (R180). -/
def stepWithLines (l : InterruptLines) (s : State) : Out :=
  if s.jammed then step s
  else
    match s.pollInterrupts Config.hasNmi Config.hasIrq l with
    | some t => .next t
    | none => step s

/-- What a handler entered through `VEC_IRQ_BRK` tests to tell BRK from IRQ (R208): bit 4 of the status byte
at `0x01:(S +_8 1)`. -/
def State.enteredByBrk (s : State) : Bool := s.pulled.getLsbD 4

end Sys2Proof.Machine
end

