-- ==== Sys2Proof/Machine/Reset.lean ====
section
/-! DEFINITION. Reset, the one asynchronous event of the 6507 (R202, R205, R214, R220), and the two kinds of
step the agent has (R9). -/

namespace Sys2Proof.Machine

/-- `RESET_DRAW` (R3, R20): the values the spec leaves unspecified after reset. -/
structure ResetDraw where
  a : Byte
  x : Byte
  y : Byte
  sp : Byte
  n : Bool
  v : Bool
  d : Bool
  z : Bool
  c : Bool
  deriving DecidableEq, Repr

/-- The reset step (R220), enabled whether or not `jammed` is set. The vector is read, and nothing is
written; the bus is not reset. -/
def State.resetStep (s : State) (r : ResetDraw) : State where
  a := r.a
  x := r.x
  y := r.y
  sp := r.sp
  pc := s.readPair Config.vecReset (Config.vecReset + 1)
  p := { n := r.n, v := r.v, d := r.d, i := true, z := r.z, c := r.c }
  jammed := false
  admitUndocumented := s.admitUndocumented
  bus := (s.afterPair Config.vecReset (Config.vecReset + 1)).bus

/-- The draw of State.reset: draw 2 of spec/95_test_vectors.md section 3. DESIGN CHOICE, unsafe (log 1). -/
def ResetDraw.sample : ResetDraw where
  a := 0x01
  x := 0x02
  y := 0x03
  sp := 0x00
  n := false
  v := false
  d := false
  z := false
  c := false

/-- What the agent may do at an instruction boundary (R9 "step", R202, R214). -/
inductive Event where
  | instruction
  | reset (r : ResetDraw)
  deriving DecidableEq, Repr

/-- One step of the agent: an instruction, or a reset that the host causes. -/
def agentStep (e : Event) (s : State) : Out :=
  match e with
  | .instruction => step s
  | .reset r => .next (s.resetStep r)

end Sys2Proof.Machine
end

