-- ==== Sys2Proof/Machine/Timing.lean ====
section
/-! DEFINITION. The cycle counts of the source's Cycles column with its two footnotes, and the spec's values for
tier 2 (R110, R230, R231). Informative: no state holds time and no meaning depends on it (log 12). -/

namespace Sys2Proof.Machine

/-- A read in a memory mode: footnote `*` adds 1 where a page boundary is crossed. -/
def State.readCycles (s : State) (m : EaMode) : Nat :=
  (match m with
    | .zpg _ => 3
    | .zpgX _ | .zpgY _ | .abs _ | .absX _ | .absY _ => 4
    | .xInd _ => 6
    | .indY _ => 5) + (s.crossed m).toNat

/-- A store: fixed, crossed or not (R83). -/
def storeCycles : EaMode → Nat
  | .zpg _ => 3
  | .zpgX _ | .zpgY _ | .abs _ => 4
  | .absX _ | .absY _ => 5
  | .xInd _ | .indY _ => 6

/-- A read-modify-write: fixed (R103, R165; tier 2 by R231). -/
def modifyCycles : EaMode → Nat
  | .zpg _ => 5
  | .zpgX _ | .zpgY _ | .abs _ => 6
  | .absX _ | .absY _ => 7
  | .xInd _ | .indY _ => 8

/-- A read operand. -/
def State.operandCycles (s : State) : ReadOperand → Nat
  | .imm _ => 2
  | .mem m => s.readCycles m

/-- A shift or rotate. -/
def shiftCycles : RmwOperand → Nat
  | .acc => 2
  | .mem m => modifyCycles m

/-- A branch (R110, footnote `**`): 2, or 3 taken within the page of the next instruction, or 4 to another. -/
def State.branchCycles (s : State) (cond : Bool) (off : Byte) : Nat :=
  if cond then (if hiByte (s.relTarget off) = hiByte (s.pc + 2) then 3 else 4) else 2

/-- The clock cycles an instruction takes, in the state after its fetch; `none` for JAM, which does not finish, and
for an unlisted byte. -/
def State.cycles (s : State) : Instr → Option Nat
  | .lda o | .ldx o | .ldy o | .adc o | .sbc o | .and o | .ora o | .eor o => some (s.operandCycles o)
  | .cmp o | .cpx o | .cpy o => some (s.operandCycles o)
  | .bit m => some (s.readCycles m)
  | .sta m | .stx m | .sty m => some (storeCycles m)
  | .asl o | .lsr o | .rol o | .ror o => some (shiftCycles o)
  | .inc m | .dec m | .slo m | .rla m | .sre m | .rra m => some (modifyCycles m)
  | .bpl off => some (s.branchCycles (!s.p.n) off)
  | .bmi off => some (s.branchCycles s.p.n off)
  | .bvc off => some (s.branchCycles (!s.p.v) off)
  | .bvs off => some (s.branchCycles s.p.v off)
  | .bcc off => some (s.branchCycles (!s.p.c) off)
  | .bcs off => some (s.branchCycles s.p.c off)
  | .bne off => some (s.branchCycles (!s.p.z) off)
  | .beq off => some (s.branchCycles s.p.z off)
  | .brk => some 7
  | .rti | .rts | .jsr _ => some 6
  | .jmp (.abs _) => some 3
  | .jmp (.ind _) => some 5
  | .pha | .php => some 3
  | .pla | .plp => some 4
  | .clc | .sec | .cli | .sei | .clv | .cld | .sed => some 2
  | .tax | .txa | .tay | .tya | .tsx | .txs => some 2
  | .inx | .iny | .dex | .dey | .nop => some 2
  | .anc _ _ | .alr _ | .arr _ => some 2
  | .nopUndoc _ .impl => some 2
  | .nopUndoc _ (.mem m) => some (s.readCycles m)
  | .jam _ | .unlisted _ => none

end Sys2Proof.Machine
end

