-- ==== Sys2Proof/Safety.lean ====
section
/-! DEFINITION. What claims about runs are stated in: the end of a run, the stuck state, the invariant of the
model, and runs over the agent's events. -/

namespace Sys2Proof.Safety

open Sys2Proof.Machine

/-- A final state (R232): not jammed, PC in the claim's `HALT`. It does not say that the chip stops. -/
def final (halt : List Word) (s : State) : Bool := !s.jammed && halt.contains s.pc

/-- The stuck state (R18): neither final nor a fault of the chip. -/
def stuck (s : State) : Bool := s.jammed

/-- The model's invariant: memory is in canonical form. -/
def inv (s : State) : Prop := s.bus.mem.wf = true

/-- A run over a list of the agent's events, stopping at the first fault or refusal (R9, R202, R214). -/
def runEvents : List Event → State → Out
  | [], s => .next s
  | e :: es, s =>
    match agentStep e s with
    | .next t => runEvents es t
    | .fault r => .fault r
    | .refused r => .refused r

/-! ### What the platform has at an address (R3, R31) -/

/-- RAM. -/
def ramAt (s : State) (addr : Word) : Prop := s.bus.locationAt (busAddr addr) = .ram

/-- ROM. -/
def romAt (s : State) (addr : Word) : Prop := s.bus.locationAt (busAddr addr) = .rom

/-- A device: what it answers is not memory. -/
def deviceAt (s : State) (addr : Word) : Prop := s.bus.locationAt (busAddr addr) = .device

/-- The whole stack page is RAM, as a platform that wants a working stack has it (R37). -/
def stackIsRam (s : State) : Prop := ∀ sp : Byte, ramAt s (stackAddr sp)

/-! ### What an instruction leaves alone -/

/-- Every byte of memory reads as before, and the platform is the same instance. -/
def sameMemory (s t : State) : Prop :=
  t.bus.regions = s.bus.regions ∧ ∀ addr, ¬ deviceAt s addr → t.memRead addr = s.memRead addr

/-- The byte at `addr` is now `v` if it is RAM, every byte of memory at another bus address reads as before, and
all of them if `addr` is not RAM. -/
def storesOnly (s t : State) (addr : Word) (v : Byte) : Prop :=
  t.bus.regions = s.bus.regions ∧ (ramAt s addr → t.memRead addr = v) ∧
    ∀ b, ¬ deviceAt s b → (busAddr b ≠ busAddr addr ∨ ¬ ramAt s addr) → t.memRead b = s.memRead b

/-- A, X, Y and S are unchanged. -/
def sameRegisters (s t : State) : Prop := t.a = s.a ∧ t.x = s.x ∧ t.y = s.y ∧ t.sp = s.sp

/-- `jammed` and `ADMIT_UNDOCUMENTED` are unchanged. -/
def sameMode (s t : State) : Prop :=
  t.jammed = s.jammed ∧ t.admitUndocumented = s.admitUndocumented

/-- The outcome of an instruction in a memory mode that stores: `v` goes to `EA` and nowhere else, the bus is
that of `u`, the state after the instruction's accesses, A and the flags become `a` and `p`, X, Y and S stay, PC
moves past the instruction. -/
def storesAt (s u t : State) (m : EaMode) (v a : Byte) (p : Flags) : Prop :=
  storesOnly s t (s.ea m) v ∧ t.bus = u.bus ∧ t.a = a ∧ t.x = s.x ∧ t.y = s.y ∧ t.sp = s.sp ∧ t.p = p ∧
    t.pc = s.pc + BitVec.ofNat 16 m.len ∧ sameMode s t

/-- The outcome of a read-modify-write: one read of the byte at `EA`, one write of `v` there (R35). -/
def updatesAt (s t : State) (m : EaMode) (v a : Byte) (p : Flags) : Prop :=
  storesAt s (((s.afterEa m).afterRead (s.ea m)).memWrite (s.ea m) v) t m v a p

/-- A trap entry has happened (R201): the address `ret`, high byte first, and the status byte `status` were
pushed, then PC was read from `vector`, low byte first. Where the stack is RAM the three bytes lie there from
`0x01:S` down; no other byte of memory changed, S is three less, and I is set. Nothing else changed. -/
def trapEntered (s t : State) (ret : Word) (status : Byte) (vector : Word) : Prop :=
  let pushed := ((s.push (hiByte ret)).push (loByte ret)).push status
  t.a = s.a ∧ t.x = s.x ∧ t.y = s.y ∧ t.sp = s.sp - 3 ∧ t.p = { s.p with i := true } ∧ sameMode s t ∧
    t.pc = hilo ((pushed.afterRead vector).memRead (vector + 1)) (pushed.memRead vector) ∧
    t.bus = ((pushed.afterRead vector).afterRead (vector + 1)).bus ∧
    t.bus.regions = s.bus.regions ∧
    (ramAt s (stackAddr s.sp) → t.memRead (stackAddr s.sp) = hiByte ret) ∧
    (ramAt s (stackAddr (s.sp - 1)) → t.memRead (stackAddr (s.sp - 1)) = loByte ret) ∧
    (ramAt s (stackAddr (s.sp - 2)) → t.memRead (stackAddr (s.sp - 2)) = status) ∧
    (∀ b, ¬ deviceAt s b → busAddr b ≠ busAddr (stackAddr s.sp) →
      busAddr b ≠ busAddr (stackAddr (s.sp - 1)) → busAddr b ≠ busAddr (stackAddr (s.sp - 2)) →
      t.memRead b = s.memRead b) ∧
    (¬ deviceAt s vector → ¬ deviceAt s (vector + 1) →
      t.pc = hilo (t.memRead (vector + 1)) (t.memRead vector))

/-- The instruction answers the next state `t`, and every byte of memory reads as before. -/
def runsTo (i : Instr) (s t : State) : Prop := exec i s = .next t ∧ sameMemory s t

/-- Whatever follows them, the bytes decode to the instruction `i`, which takes exactly these bytes. -/
def decodesTo (bytes : List Byte) (i : Instr) : Prop :=
  i.len = bytes.length ∧ ∀ rest, decode (bytes ++ rest) = .ok (i, rest)

/-! ### Runs of the stack -/

/-- Pushes the bytes, first to last (R36). -/
def pushAll : List Byte → State → State
  | [], s => s
  | v :: vs, s => pushAll vs (s.push v)

/-- Pulls `k` bytes, in the order they come, and gives the state after them (R36). -/
def pullAll : Nat → State → List Byte × State
  | 0, s => ([], s)
  | k + 1, s => (s.pulled :: (pullAll k s.pull).1, (pullAll k s.pull).2)

/-! ### The flag table of R17 -/

/-- A mark of the source's "Legend to Flags" (R17). -/
inductive FlagMark where
  /-- `-`, not modified. -/
  | kept
  /-- `+`, modified: the instruction's own rule says how. -/
  | modified
  /-- `M7`, `M6` and "from stack": the bit named. -/
  | copied (b : Bool)
  /-- `0`, cleared. -/
  | cleared
  /-- `1`, set. -/
  | set
  deriving DecidableEq, Repr

/-- What a mark says of a flag before and after. -/
def FlagMark.holds (m : FlagMark) (before after : Bool) : Prop :=
  match m with
  | .kept => after = before
  | .modified => True
  | .copied b => after = b
  | .cleared => after = false
  | .set => after = true

/-- One line of the table of R17; a flag not named is not modified. -/
structure FlagLine where
  n : FlagMark := .kept
  v : FlagMark := .kept
  d : FlagMark := .kept
  i : FlagMark := .kept
  z : FlagMark := .kept
  c : FlagMark := .kept

/-- The line of R17 that an instruction stands in; for BIT the memory byte, for PLP and RTI the status byte are those of
the state before it. -/
def flagLine (s : State) : Instr → FlagLine
  | .lda _ | .ldx _ | .ldy _ | .and _ | .ora _ | .eor _ => { n := .modified, z := .modified }
  | .inc _ | .inx | .iny | .dec _ | .dex | .dey => { n := .modified, z := .modified }
  | .tax | .tay | .txa | .tya | .tsx | .pla => { n := .modified, z := .modified }
  | .adc _ | .sbc _ => { n := .modified, v := .modified, z := .modified, c := .modified }
  | .asl _ | .rol _ | .ror _ => { n := .modified, z := .modified, c := .modified }
  | .lsr _ => { n := .cleared, z := .modified, c := .modified }
  | .cmp _ | .cpx _ | .cpy _ => { n := .modified, z := .modified, c := .modified }
  | .bit m => { n := .copied ((s.byteAt m).getLsbD 7), v := .copied ((s.byteAt m).getLsbD 6), z := .modified }
  | .clc => { c := .cleared }
  | .sec => { c := .set }
  | .cld => { d := .cleared }
  | .sed => { d := .set }
  | .cli => { i := .cleared }
  | .sei => { i := .set }
  | .clv => { v := .cleared }
  | .plp | .rti =>
    let b (k : Nat) : FlagMark := .copied (s.pulled.getLsbD k)
    { n := b 7, v := b 6, d := b 3, i := b 2, z := b 1, c := b 0 }
  | .brk => { i := .set }
  | .sta _ | .stx _ | .sty _ | .txs | .pha | .php | .jmp _ | .jsr _ | .rts | .nop => {}
  | .bpl _ | .bmi _ | .bvc _ | .bvs _ | .bcc _ | .bcs _ | .bne _ | .beq _ => {}
  | .slo _ | .rla _ | .sre _ | .anc _ _ => { n := .modified, z := .modified, c := .modified }
  | .alr _ => { n := .cleared, z := .modified, c := .modified }
  | .rra _ | .arr _ => { n := .modified, v := .modified, z := .modified, c := .modified }
  | .nopUndoc _ _ | .jam _ | .unlisted _ => {}

/-- A flag table line holds between the flags before and after. -/
def FlagLine.holds (l : FlagLine) (p q : Flags) : Prop :=
  l.n.holds p.n q.n ∧ l.v.holds p.v q.v ∧ l.d.holds p.d q.d ∧ l.i.holds p.i q.i ∧
    l.z.holds p.z q.z ∧ l.c.holds p.c q.c

/-! ### Which instructions write what (R10 to R13) -/

/-- The instructions R10 lists under "Written by" for A. -/
def writesA : Instr → Bool
  | .lda _ | .adc _ | .sbc _ | .and _ | .ora _ | .eor _ | .pla | .txa | .tya => true
  | .asl .acc | .lsr .acc | .rol .acc | .ror .acc => true
  | .slo _ | .rla _ | .sre _ | .rra _ | .anc _ _ | .alr _ | .arr _ => true
  | .ldx _ | .ldy _ | .sta _ | .stx _ | .sty _ | .asl (.mem _) | .lsr (.mem _) | .rol (.mem _) => false
  | .ror (.mem _) | .bpl _ | .bmi _ | .bvc _ | .bvs _ | .bcc _ | .bcs _ | .bne _ | .beq _ | .brk => false
  | .rti | .jsr _ | .rts | .jmp _ | .clc | .sec | .cli | .sei | .clv | .cld | .sed | .tax | .tay => false
  | .tsx | .txs | .pha | .php | .plp | .bit _ | .cmp _ | .cpx _ | .cpy _ | .inc _ | .dec _ => false
  | .inx | .iny | .dex | .dey | .nop | .jam _ | .nopUndoc _ _ | .unlisted _ => false

/-- The instructions R11 lists as writing X. -/
def writesX : Instr → Bool
  | .ldx _ | .inx | .dex | .tax | .tsx => true
  | .lda _ | .ldy _ | .sta _ | .stx _ | .sty _ | .adc _ | .sbc _ | .and _ | .ora _ | .eor _ => false
  | .asl _ | .lsr _ | .rol _ | .ror _ | .bpl _ | .bmi _ | .bvc _ | .bvs _ | .bcc _ | .bcs _ => false
  | .bne _ | .beq _ | .brk | .rti | .jsr _ | .rts | .jmp _ | .clc | .sec | .cli | .sei | .clv => false
  | .cld | .sed | .txa | .tay | .tya | .txs | .pha | .pla | .php | .plp | .bit _ | .cmp _ => false
  | .cpx _ | .cpy _ | .inc _ | .dec _ | .iny | .dey | .nop | .jam _ | .slo _ | .rla _ | .sre _ => false
  | .rra _ | .anc _ _ | .alr _ | .arr _ | .nopUndoc _ _ | .unlisted _ => false

/-- The instructions R11 lists as writing Y. -/
def writesY : Instr → Bool
  | .ldy _ | .iny | .dey | .tay => true
  | .lda _ | .ldx _ | .sta _ | .stx _ | .sty _ | .adc _ | .sbc _ | .and _ | .ora _ | .eor _ => false
  | .asl _ | .lsr _ | .rol _ | .ror _ | .bpl _ | .bmi _ | .bvc _ | .bvs _ | .bcc _ | .bcs _ => false
  | .bne _ | .beq _ | .brk | .rti | .jsr _ | .rts | .jmp _ | .clc | .sec | .cli | .sei | .clv => false
  | .cld | .sed | .tax | .txa | .tya | .tsx | .txs | .pha | .pla | .php | .plp | .bit _ | .cmp _ => false
  | .cpx _ | .cpy _ | .inc _ | .dec _ | .inx | .dex | .nop | .jam _ | .slo _ | .rla _ | .sre _ => false
  | .rra _ | .anc _ _ | .alr _ | .arr _ | .nopUndoc _ _ | .unlisted _ => false

/-- The instructions R12 lists as writing S: those of Push and Pull, and TXS. -/
def writesS : Instr → Bool
  | .pha | .php | .pla | .plp | .jsr _ | .rts | .brk | .rti | .txs => true
  | .lda _ | .ldx _ | .ldy _ | .sta _ | .stx _ | .sty _ | .adc _ | .sbc _ | .and _ | .ora _ => false
  | .eor _ | .asl _ | .lsr _ | .rol _ | .ror _ | .bpl _ | .bmi _ | .bvc _ | .bvs _ | .bcc _ => false
  | .bcs _ | .bne _ | .beq _ | .jmp _ | .clc | .sec | .cli | .sei | .clv | .cld | .sed | .tax => false
  | .txa | .tay | .tya | .tsx | .bit _ | .cmp _ | .cpx _ | .cpy _ | .inc _ | .dec _ | .inx => false
  | .iny | .dex | .dey | .nop | .jam _ | .slo _ | .rla _ | .sre _ | .rra _ | .anc _ _ | .alr _ => false
  | .arr _ | .nopUndoc _ _ | .unlisted _ => false

/-- The instructions with a `MemWrite` or a `Push` in their rule. -/
def writesMemory : Instr → Bool
  | .sta _ | .stx _ | .sty _ | .inc _ | .dec _ | .pha | .php | .jsr _ | .brk => true
  | .asl (.mem _) | .lsr (.mem _) | .rol (.mem _) | .ror (.mem _) => true
  | .slo _ | .rla _ | .sre _ | .rra _ => true
  | .lda _ | .ldx _ | .ldy _ | .adc _ | .sbc _ | .and _ | .ora _ | .eor _ | .asl .acc => false
  | .lsr .acc | .rol .acc | .ror .acc | .bpl _ | .bmi _ | .bvc _ | .bvs _ | .bcc _ | .bcs _ => false
  | .bne _ | .beq _ | .rti | .rts | .jmp _ | .clc | .sec | .cli | .sei | .clv | .cld | .sed => false
  | .tax | .txa | .tay | .tya | .tsx | .txs | .pla | .plp | .bit _ | .cmp _ | .cpx _ | .cpy _ => false
  | .inx | .iny | .dex | .dey | .nop | .jam _ | .anc _ _ | .alr _ | .arr _ | .nopUndoc _ _ => false
  | .unlisted _ => false

/-- The instructions that may leave PC elsewhere than after themselves (R13), and JAM, which leaves it. -/
def movesPc : Instr → Bool
  | .bpl _ | .bmi _ | .bvc _ | .bvs _ | .bcc _ | .bcs _ | .bne _ | .beq _ => true
  | .brk | .rti | .jsr _ | .rts | .jmp _ | .jam _ => true
  | .lda _ | .ldx _ | .ldy _ | .sta _ | .stx _ | .sty _ | .adc _ | .sbc _ | .and _ | .ora _ => false
  | .eor _ | .asl _ | .lsr _ | .rol _ | .ror _ | .clc | .sec | .cli | .sei | .clv | .cld | .sed => false
  | .tax | .txa | .tay | .tya | .tsx | .txs | .pha | .pla | .php | .plp | .bit _ | .cmp _ => false
  | .cpx _ | .cpy _ | .inc _ | .dec _ | .inx | .iny | .dex | .dey | .nop | .slo _ | .rla _ => false
  | .sre _ | .rra _ | .anc _ _ | .alr _ | .arr _ | .nopUndoc _ _ | .unlisted _ => false

/-! ### Packed BCD (R93, R95) -/

/-- Both digits of the byte are decimal. -/
def bcdValid (b : Byte) : Prop := b.toNat / 16 ≤ 9 ∧ b.toNat % 16 ≤ 9

/-- The number two packed digits stand for. -/
def bcdValue (b : Byte) : Nat := 10 * (b.toNat / 16) + b.toNat % 16

end Sys2Proof.Safety
end

