-- ==== Sys2Proof/Certificates/Slice0/Obligations.lean ====
section
/-! DEFINITION. The statements for the provers. Where a statement names `runsTo`, the whole next state is written
out, so every field not written is unchanged, and every byte of memory (RAM and ROM) reads as before. The bus is any
instance of R3; the state after the accesses of a statement is written with `afterRead` and `memWrite`, the two
accesses of R31, in their order. -/

open Sys2Proof Sys2Proof.Machine Sys2Proof.Safety

/-! ### Encoding -/

/-- Decode undoes encode, for every well-formed instruction and every operand, whatever bytes follow
(R51, R53, R67). -/
def Obligations.DecodeOfEncode : Prop :=
  ∀ (i : Instr) (rest : List Byte), i.wf = true → decode (encode i ++ rest) = .ok (i, rest)

/-- Every opcode byte has one length, 1 to 3, that depends on nothing else; any bytes that start with it decode to a
well-formed instruction of that length, which takes that many bytes, and whose encoding is those bytes
(R51, R53, R67 for the 203 listed bytes). That the 53 unlisted bytes, to which R190 gives no length, decode with length
1 is the model's choice (log 9). -/
def Obligations.EveryByteDecodesWithItsLength : Prop :=
  ∀ op : Byte, ∃ len : Nat, 1 ≤ len ∧ len ≤ 3 ∧
    ∀ (b1 b2 : Byte) (rest : List Byte), ∃ i : Instr,
      decode (op :: b1 :: b2 :: rest) = .ok (i, (b1 :: b2 :: rest).drop (len - 1)) ∧
      i.wf = true ∧ i.len = len ∧ encode i = (op :: b1 :: b2 :: rest).take len

/-- A few words written out from the tables of the instruction rules. -/
def Obligations.SampleWordsDecode : Prop :=
  decodesTo [0xA9, 0x80] (.lda (.imm 0x80)) ∧
  decodesTo [0x9D, 0xFF, 0x02] (.sta (.absX 0x02FF)) ∧
  decodesTo [0x71, 0x10] (.adc (.mem (.indY 0x10))) ∧
  decodesTo [0xE1, 0x10] (.sbc (.mem (.xInd 0x10))) ∧
  decodesTo [0x39, 0x34, 0x12] (.and (.mem (.absY 0x1234))) ∧
  decodesTo [0x36, 0x20] (.rol (.mem (.zpgX 0x20))) ∧
  decodesTo [0x4A] (.lsr .acc) ∧
  decodesTo [0xD0, 0xFC] (.bne 0xFC) ∧
  decodesTo [0x20, 0x34, 0x12] (.jsr 0x1234) ∧
  decodesTo [0x6C, 0xFF, 0x02] (.jmp (.ind 0x02FF)) ∧
  decodesTo [0xD8] .cld ∧
  decodesTo [0x9A] .txs ∧
  decodesTo [0x08] .php ∧
  decodesTo [0x2C, 0x34, 0x12] (.bit (.abs 0x1234)) ∧
  decodesTo [0x96, 0xFF] (.stx (.zpgY 0xFF)) ∧
  decodesTo [0x13, 0x10] (.slo (.indY 0x10)) ∧
  decodesTo [0x2B, 0x80] (.anc 0x2B 0x80)

/-- The three corrected cells of R70, and the three rows whose descriptions are only misspelt. -/
def Obligations.CorrectedCellsDecode : Prop :=
  ∀ l h : Byte,
    decodesTo [0xBE, l, h] (.ldx (.mem (.absY (hilo h l)))) ∧
    decodesTo [0x1C, l, h] (.nopUndoc 0x1C (.mem (.absX (hilo h l)))) ∧
    decodesTo [0xAA] .tax ∧
    decodesTo [0x0F, l, h] (.slo (.abs (hilo h l))) ∧
    decodesTo [0x44, l] (.nopUndoc 0x44 (.mem (.zpg l))) ∧
    decodesTo [0x48] .pha

/-! ### The invariant, reset, memory -/

/-- The invariant holds at State.reset, and State.reset is what the reset step (R220) makes of it with the draw
ResetDraw.sample. The draw, the default bus with nothing listed, and `admitUndocumented` are the model's choices (logs 1,
2, 3 and 4). -/
def Obligations.ResetStateFitsTheResetStep : Prop :=
  inv State.reset ∧ State.reset = State.reset.resetStep ResetDraw.sample ∧
    State.reset.p.i = true ∧ State.reset.jammed = false ∧ State.reset.bus.regions = [] ∧
    State.reset.pc = hilo (State.reset.memRead 0xFFFD) (State.reset.memRead 0xFFFC)

/-- From every state whose memory is canonical, a step of the agent, an instruction or a reset with any draw, leads
to a state whose memory is canonical, and it leaves the parameters as they are: the bus instance and
ADMIT_UNDOCUMENTED (R3, R9, R181, R220; the canonical form, the map of the bus and the field are the model's, logs 3 and
4). -/
def Obligations.EveryStepKeepsTheInvariant : Prop :=
  ∀ s : State, inv s →
    (∀ t, step s = .next t →
      inv t ∧ t.bus.regions = s.bus.regions ∧ t.admitUndocumented = s.admitUndocumented) ∧
    (∀ r, inv (s.resetStep r) ∧ (s.resetStep r).bus.regions = s.bus.regions ∧
      (s.resetStep r).admitUndocumented = s.admitUndocumented)

/-- The same over every sequence of instructions and resets (R202, R214; the canonical form, the map and the field are
the model's, logs 3 and 4). -/
def Obligations.EveryRunKeepsTheInvariant : Prop :=
  ∀ (es : List Event) (s t : State), inv s → runEvents es s = .next t →
    inv t ∧ t.bus.regions = s.bus.regions ∧ t.admitUndocumented = s.admitUndocumented

/-- Memories in canonical form that read alike at every bus address are equal, as R38's bus states, which are
functions, are; the canonical form is the model's (logs 2 and 3). -/
def Obligations.CanonicalMemoriesReadingAlikeAreEqual : Prop :=
  ∀ m n : Memory, m.wf = true → n.wf = true → (∀ a, a < busSize → m.read a = n.read a) → m = n

/-- A read of RAM gives the byte last written to the same bus address; a write changes no other byte of memory, and none
at all of ROM; a read changes no byte of memory; both change nothing but the bus. On the default instance, which has no
region, reads and writes are those of R38. On a device a read answers the open byte, and each access is one event
(R31, R38, R40; the map and the events are the model's, log 3). -/
def Obligations.ReadGivesTheLatestWrite : Prop :=
  (∀ (s : State) (addr b : Word) (v : Byte),
    (ramAt s addr → busAddr addr = busAddr b → (s.memWrite addr v).memRead b = v) ∧
    (¬ deviceAt s b → (busAddr addr ≠ busAddr b ∨ ¬ ramAt s addr) →
      (s.memWrite addr v).memRead b = s.memRead b) ∧
    (¬ deviceAt s b → (s.afterRead addr).memRead b = s.memRead b) ∧
    s.memWrite addr v = { s with bus := (s.memWrite addr v).bus } ∧
    s.afterRead addr = { s with bus := (s.afterRead addr).bus }) ∧
  (∀ (b : Bus) (a : Nat) (v : Byte), b.regions = [] →
    b.read a = (b.mem.read a, b) ∧ b.write a v = { b with mem := b.mem.write a v }) ∧
  (∀ (b : Bus) (a : Nat) (v : Byte), b.locationAt a = .rom →
    b.read a = (b.mem.read a, b) ∧ b.write a v = b) ∧
  (∀ (b : Bus) (a : Nat) (v : Byte), b.locationAt a = .device →
    b.read a = (Config.deviceByte b.events a, { b with events := .read a :: b.events }) ∧
    b.write a v = { b with events := .write a v :: b.events })

/-- R31: the bus address is the address modulo 8192; `MemRead` gives the byte of `Bus.read` there, `MemWrite` performs
`Bus.write` there, and each updates the bus state; two internal addresses name one location exactly where they agree
modulo 8192, and the eight aliases of an address read and write alike. -/
def Obligations.EightAliasesAreOneLocation : Prop :=
  (∀ (s : State) (addr : Word) (v : Byte),
    busAddr addr = addr.toNat % 8192 ∧
    s.memRead addr = (s.bus.read (addr.toNat % 8192)).1 ∧
    (s.afterRead addr).bus = (s.bus.read (addr.toNat % 8192)).2 ∧
    (s.memWrite addr v).bus = s.bus.write (addr.toNat % 8192) v) ∧
  (∀ (s : State) (addr : Word) (v : Byte) (k : Nat), k < 8 →
    s.memRead (addr + BitVec.ofNat 16 (8192 * k)) = s.memRead addr ∧
    s.afterRead (addr + BitVec.ofNat 16 (8192 * k)) = s.afterRead addr ∧
    s.memWrite (addr + BitVec.ofNat 16 (8192 * k)) v = s.memWrite addr v) ∧
  (∀ addr b : Word, busAddr addr = busAddr b ↔
    ∃ k : Nat, k < 8 ∧ b = addr + BitVec.ofNat 16 (8192 * k)) ∧
  (∀ s : State, s.memRead 0xFFFC = s.memRead 0x1FFC ∧ s.memRead 0x3FFC = s.memRead 0x1FFC)

/-- R36: the stack is page one; Push writes at `0x01:S` and lowers S, Pull raises S and reads at `0x01:S`, both
wrapping within the page; no other byte and no other state changes. -/
def Obligations.PushAndPullWrapInPageOne : Prop :=
  (∀ sp : Byte, (stackAddr sp).toNat = 0x0100 + sp.toNat ∧ busAddr (stackAddr sp) = 0x0100 + sp.toNat) ∧
  (∀ (s : State) (v : Byte),
    storesOnly s (s.push v) (stackAddr s.sp) v ∧
    s.push v = { s with sp := s.sp - 1, bus := (s.memWrite (stackAddr s.sp) v).bus } ∧
    s.pull = { s with sp := s.sp + 1, bus := (s.afterRead (stackAddr (s.sp + 1))).bus } ∧
    s.pulled = s.memRead (stackAddr (s.sp + 1))) ∧
  (∀ (s : State) (v : Byte), s.sp = 0x00 →
    s.push v = { s with sp := 0xFF, bus := (s.memWrite 0x0100 v).bus }) ∧
  (∀ s : State, s.sp = 0xFF → s.pull.sp = 0x00 ∧ s.pulled = s.memRead 0x0100)

/-- Where the stack page is RAM, as R37 asks of a platform, up to 256 bytes pushed come back in the opposite order, and S
is then what it was; the page is full at 256 (R36, R37, R207). -/
def Obligations.StackIsLastInFirstOut : Prop :=
  ∀ (vs : List Byte) (s : State), stackIsRam s → vs.length ≤ 256 →
    (pullAll vs.length (pushAll vs s)).1 = vs.reverse ∧
    (pullAll vs.length (pushAll vs s)).2 = { pushAll vs s with sp := s.sp }

/-- The layout of the status byte as pushed (R15) and as pulled (R16), and that bits 5 and 4 are lost in between. -/
def Obligations.StatusByteLayout : Prop :=
  (∀ (p : Flags) (b : Bool), (p.toByte b).toNat =
    128 * p.n.toNat + 64 * p.v.toNat + 32 + 16 * b.toNat + 8 * p.d.toNat + 4 * p.i.toNat +
      2 * p.z.toNat + p.c.toNat) ∧
  (∀ v : Byte, Flags.ofByte v =
    { n := v.getLsbD 7, v := v.getLsbD 6, d := v.getLsbD 3, i := v.getLsbD 2, z := v.getLsbD 1,
      c := v.getLsbD 0 }) ∧
  (∀ (p : Flags) (b : Bool), Flags.ofByte (p.toByte b) = p) ∧
  (∀ v : Byte, (Flags.ofByte v).toByte true = v ||| 0x30)

/-! ### Addressing modes -/

/-- Immediate: the operand is the byte after the opcode, and nothing is read (R56). The zero-page modes: the sum wraps
within page zero, and the operand is one read at EA (R57, R58, R59). -/
def Obligations.ZeroPageModes : Prop :=
  ∀ (s : State) (b1 : Byte),
    s.operand (.imm b1) = b1 ∧ s.afterOperand (.imm b1) = s ∧ (ReadOperand.imm b1).len = 2 ∧
    (s.ea (.zpg b1)).toNat = b1.toNat ∧
    (s.ea (.zpgX b1)).toNat = (b1.toNat + s.x.toNat) % 256 ∧
    (s.ea (.zpgY b1)).toNat = (b1.toNat + s.y.toNat) % 256 ∧
    (EaMode.zpg b1).len = 2 ∧ (EaMode.zpgX b1).len = 2 ∧ (EaMode.zpgY b1).len = 2 ∧
    s.crossed (.zpg b1) = false ∧ s.crossed (.zpgX b1) = false ∧ s.crossed (.zpgY b1) = false ∧
    (∀ m ∈ [EaMode.zpg b1, .zpgX b1, .zpgY b1],
      s.afterEa m = s ∧ s.operand (.mem m) = s.memRead (s.ea m) ∧ s.byteAt m = s.memRead (s.ea m) ∧
      s.afterOperand (.mem m) = s.afterRead (s.ea m) ∧ (ReadOperand.mem m).len = 2)

/-- Absolute: EA is the word in the instruction, low byte first (R60). The absolute indexed modes: the sum wraps modulo
65536, and `Crossed` is that the low bytes' sum carries, which is that the page of EA is not the page of the base
(R61, R62). In all three the operand is one read at EA. -/
def Obligations.AbsoluteIndexedModes : Prop :=
  ∀ (s : State) (b2 b1 : Byte),
    (s.ea (.abs (hilo b2 b1))).toNat = 256 * b2.toNat + b1.toNat ∧
    s.crossed (.abs (hilo b2 b1)) = false ∧
    (s.ea (.absX (hilo b2 b1))).toNat = (256 * b2.toNat + b1.toNat + s.x.toNat) % 65536 ∧
    (s.ea (.absY (hilo b2 b1))).toNat = (256 * b2.toNat + b1.toNat + s.y.toNat) % 65536 ∧
    (s.crossed (.absX (hilo b2 b1)) = true ↔ 0x100 ≤ b1.toNat + s.x.toNat) ∧
    (s.crossed (.absX (hilo b2 b1)) = true ↔ hiByte (s.ea (.absX (hilo b2 b1))) ≠ b2) ∧
    (s.crossed (.absY (hilo b2 b1)) = true ↔ 0x100 ≤ b1.toNat + s.y.toNat) ∧
    (s.crossed (.absY (hilo b2 b1)) = true ↔ hiByte (s.ea (.absY (hilo b2 b1))) ≠ b2) ∧
    (∀ m ∈ [EaMode.abs (hilo b2 b1), .absX (hilo b2 b1), .absY (hilo b2 b1)],
      m.len = 3 ∧ (ReadOperand.mem m).len = 3 ∧
      s.afterEa m = s ∧ s.operand (.mem m) = s.memRead (s.ea m) ∧ s.byteAt m = s.memRead (s.ea m) ∧
      s.afterOperand (.mem m) = s.afterRead (s.ea m))

/-- The indirect modes: the pointer lies in page zero, is read low byte first, and its second byte wraps there; X picks
the pointer, Y is added to what it holds; the operand is one read at EA after the pointer's two (R63, R64). -/
def Obligations.IndirectModes : Prop :=
  ∀ (s : State) (b1 : Byte),
    let zp := b1 + s.x
    let low (z : Byte) : Byte := s.memRead (hilo 0 z)
    let high (z : Byte) : Byte := (s.afterRead (hilo 0 z)).memRead (hilo 0 (z + 1))
    let done (z : Byte) : State := (s.afterRead (hilo 0 z)).afterRead (hilo 0 (z + 1))
    s.ea (.xInd b1) = hilo (high zp) (low zp) ∧ s.afterEa (.xInd b1) = done zp ∧
    s.crossed (.xInd b1) = false ∧
    (s.ea (.indY b1)).toNat = (256 * (high b1).toNat + (low b1).toNat + s.y.toNat) % 65536 ∧
    s.afterEa (.indY b1) = done b1 ∧
    (s.crossed (.indY b1) = true ↔ 0x100 ≤ (low b1).toNat + s.y.toNat) ∧
    (∀ m ∈ [EaMode.xInd b1, .indY b1],
      m.len = 2 ∧ (ReadOperand.mem m).len = 2 ∧
      s.operand (.mem m) = (s.afterEa m).memRead (s.ea m) ∧ s.byteAt m = (s.afterEa m).memRead (s.ea m) ∧
      s.afterOperand (.mem m) = (s.afterEa m).afterRead (s.ea m))

/-- The branch target: a signed offset from the address of the next instruction, modulo 65536 (R65). -/
def Obligations.RelativeTargetIsSigned : Prop :=
  ∀ (s : State) (off : Byte),
    ((s.relTarget off).toNat : Int) = ((s.pc.toNat : Int) + 2 + off.toInt) % 65536 ∧
    -128 ≤ off.toInt ∧ off.toInt ≤ 127

/-- JMP in both forms; the page byte of the pointer is not incremented, and the pointer is read low byte first (R66). -/
def Obligations.JumpForms : Prop :=
  ∀ (s : State) (b2 b1 : Byte),
    let read := s.afterRead (hilo b2 b1)
    decodesTo [0x4C, b1, b2] (.jmp (.abs (hilo b2 b1))) ∧
    decodesTo [0x6C, b1, b2] (.jmp (.ind (hilo b2 b1))) ∧
    runsTo (.jmp (.abs (hilo b2 b1))) s { s with pc := hilo b2 b1 } ∧
    runsTo (.jmp (.ind (hilo b2 b1))) s
      { s with
        pc := hilo (read.memRead (hilo b2 (b1 + 1))) (s.memRead (hilo b2 b1))
        bus := (read.afterRead (hilo b2 (b1 + 1))).bus }

/-! ### Loads and stores -/

/-- LDA, LDX, LDY, in every form (R80 to R82). -/
def Obligations.LoadsSetRegisterNZ : Prop :=
  ∀ (o : ReadOperand) (s : State),
    let v := s.operand o
    let p : Flags := { s.p with n := v.msb, z := v == 0 }
    let pc := s.pc + BitVec.ofNat 16 o.len
    let bus := (s.afterOperand o).bus
    runsTo (.lda o) s { s with a := v, p := p, pc := pc, bus := bus } ∧
    runsTo (.ldx o) s { s with x := v, p := p, pc := pc, bus := bus } ∧
    runsTo (.ldy o) s { s with y := v, p := p, pc := pc, bus := bus }

/-- STA, STX, STY, in every form: the register goes to EA, which is not read; no other byte and no flag changes (R83 to
R85). -/
def Obligations.StoresWriteOneByte : Prop :=
  ∀ (m : EaMode) (s : State),
    let stored (v : Byte) : State := (s.afterEa m).memWrite (s.ea m) v
    (∃ t, exec (.sta m) s = .next t ∧ storesAt s (stored s.a) t m s.a s.a s.p) ∧
    (∃ t, exec (.stx m) s = .next t ∧ storesAt s (stored s.x) t m s.x s.a s.p) ∧
    (∃ t, exec (.sty m) s = .next t ∧ storesAt s (stored s.y) t m s.y s.a s.p)

/-! ### Arithmetic -/

/-- `adc_bin`: result and carry are those of the unbounded sum, V is that the signed sum is out of range (R92). -/
def Obligations.BinaryAdditionAsIntegers : Prop :=
  ∀ (a m : Byte) (c : Bool),
    (adcBin a m c).r.toNat = (a.toNat + m.toNat + c.toNat) % 256 ∧
    ((adcBin a m c).c = true ↔ 0x100 ≤ a.toNat + m.toNat + c.toNat) ∧
    ((adcBin a m c).v = true ↔ (a ^^^ (adcBin a m c).r) &&& (m ^^^ (adcBin a m c).r) &&& 0x80 ≠ 0) ∧
    ((adcBin a m c).v = true ↔
      a.toInt + m.toInt + c.toNat < -128 ∨ 127 < a.toInt + m.toInt + c.toNat) ∧
    (adcBin a m c).n = (adcBin a m c).r.getLsbD 7 ∧
    ((adcBin a m c).z = true ↔ (adcBin a m c).r = 0)

/-- `sbc_bin`: the result is the difference less the borrow modulo 256, C is that there is no borrow, V that the signed
difference is out of range (R94). -/
def Obligations.BinarySubtractionAsIntegers : Prop :=
  ∀ (a m : Byte) (c : Bool),
    sbcBin a m c = adcBin a (m ^^^ 0xFF) c ∧
    ((sbcBin a m c).r.toNat : Int) = ((a.toNat : Int) - m.toNat - (1 - c.toNat)) % 256 ∧
    ((sbcBin a m c).c = true ↔ 0 ≤ (a.toNat : Int) - m.toNat - (1 - c.toNat)) ∧
    ((sbcBin a m c).v = true ↔ (a ^^^ m) &&& (a ^^^ (sbcBin a m c).r) &&& 0x80 ≠ 0) ∧
    ((sbcBin a m c).v = true ↔
      a.toInt - m.toInt - (1 - c.toNat) < -128 ∨ 127 < a.toInt - m.toInt - (1 - c.toNat)) ∧
    (sbcBin a m c).n = (sbcBin a m c).r.getLsbD 7 ∧
    ((sbcBin a m c).z = true ↔ (sbcBin a m c).r = 0)

/-- `bcd_adc`, for every pair of bytes, is the pseudocode of R93 in the rule's bitwise operators; for operands whose
digits are decimal the result is the two-digit sum and its carry. -/
def Obligations.DecimalAddition : Prop :=
  (∀ (a m : Byte) (c : Bool),
    let al := (a &&& 0x0F).toNat + (m &&& 0x0F).toNat + c.toNat
    let al' := if 0x0A ≤ al then ((al + 0x06) &&& 0x0F) + 0x10 else al
    let t := (a &&& 0xF0).toNat + (m &&& 0xF0).toNat + al'
    let t' := if 0xA0 ≤ t then t + 0x60 else t
    bcdAdc a m c =
      { r := BitVec.ofNat 8 t'
        n := t.testBit 7
        v := decide ((a.toNat ^^^ t) &&& (m.toNat ^^^ t) &&& 0x80 ≠ 0)
        z := decide ((a.toNat + m.toNat + c.toNat) &&& 0xFF = 0)
        c := decide (0x100 ≤ t') }) ∧
  (∀ (a m : Byte) (c : Bool), bcdValid a → bcdValid m →
    bcdValid (bcdAdc a m c).r ∧
    bcdValue (bcdAdc a m c).r = (bcdValue a + bcdValue m + c.toNat) % 100 ∧
    ((bcdAdc a m c).c = true ↔ 100 ≤ bcdValue a + bcdValue m + c.toNat))

/-- `bcd_sbc`, for every pair of bytes, is the pseudocode of R95; for operands whose digits are decimal the result is
the two-digit difference modulo 100, and C of the binary subtraction is that there is no borrow. -/
def Obligations.DecimalSubtraction : Prop :=
  (∀ (a m : Byte) (c : Bool),
    let al : Int := (a &&& 0x0F).toNat - (m &&& 0x0F).toNat + c.toNat - 1
    let al' := if al < 0 then (al - 0x06) % 16 - 0x10 else al
    let t : Int := (a &&& 0xF0).toNat - (m &&& 0xF0).toNat + al'
    let t' := if t < 0 then t - 0x60 else t
    ((bcdSbc a m c).toNat : Int) = t' % 256) ∧
  (∀ (a m : Byte) (c : Bool), bcdValid a → bcdValid m →
    bcdValid (bcdSbc a m c) ∧
    (bcdValue (bcdSbc a m c) : Int) = ((bcdValue a : Int) - bcdValue m - (1 - c.toNat)) % 100 ∧
    ((sbcBin a m c).c = true ↔ 0 ≤ (bcdValue a : Int) - bcdValue m - (1 - c.toNat)))

/-- ADC and SBC, in every form: decimal where D is set, SBC taking its flags from the binary subtraction always
(R90, R91). -/
def Obligations.AddAndSubtractWithCarry : Prop :=
  ∀ (o : ReadOperand) (s : State),
    let m := s.operand o
    let q := if s.p.d = true then bcdAdc s.a m s.p.c else adcBin s.a m s.p.c
    let b := sbcBin s.a m s.p.c
    let pc := s.pc + BitVec.ofNat 16 o.len
    let bus := (s.afterOperand o).bus
    runsTo (.adc o) s
      { s with a := q.r, p := { s.p with n := q.n, v := q.v, z := q.z, c := q.c }, pc := pc, bus := bus } ∧
    runsTo (.sbc o) s
      { s with
        a := if s.p.d = true then bcdSbc s.a m s.p.c else b.r
        p := { s.p with n := b.n, v := b.v, z := b.z, c := b.c }
        pc := pc
        bus := bus }

/-- `Compare`: C is unsigned greater or equal, Z equality, N bit 7 of the wrapped difference; these are the flags of
the binary subtraction with the carry set, and V, D and I stay (R164). -/
def Obligations.CompareIsBinarySubtraction : Prop :=
  ∀ (p : Flags) (r m : Byte),
    p.compare r m = { p with n := (r - m).getLsbD 7, z := decide (r = m), c := decide (m.toNat ≤ r.toNat) } ∧
    p.compare r m =
      { p with n := (sbcBin r m true).n, z := (sbcBin r m true).z, c := (sbcBin r m true).c }

/-- CMP, CPX, CPY in every form, and BIT: flags only (R160 to R163). -/
def Obligations.ComparesAndBitTestWriteFlagsOnly : Prop :=
  ∀ (o : ReadOperand) (m : EaMode) (s : State),
    let pc := s.pc + BitVec.ofNat 16 o.len
    let bus := (s.afterOperand o).bus
    let b := (s.afterEa m).memRead (s.ea m)
    runsTo (.cmp o) s { s with p := s.p.compare s.a (s.operand o), pc := pc, bus := bus } ∧
    runsTo (.cpx o) s { s with p := s.p.compare s.x (s.operand o), pc := pc, bus := bus } ∧
    runsTo (.cpy o) s { s with p := s.p.compare s.y (s.operand o), pc := pc, bus := bus } ∧
    runsTo (.bit m) s
      { s with
        p := { s.p with n := b.getLsbD 7, v := b.getLsbD 6, z := s.a &&& b == 0 }
        pc := s.pc + BitVec.ofNat 16 m.len
        bus := ((s.afterEa m).afterRead (s.ea m)).bus }

/-- After CMP, the branches test the unsigned order of A and the operand: BCC lower, BCS higher or same, BEQ equal, BNE
different (R115 to R118, R164). -/
def Obligations.BranchesAfterCompareTestTheOrder : Prop :=
  ∀ (o : ReadOperand) (s : State) (off : Byte), ∃ t,
    exec (.cmp o) s = .next t ∧
    exec (.bcc off) t = .next { t with
      pc := if s.a.toNat < (s.operand o).toNat then t.relTarget off else t.pc + 2 } ∧
    exec (.bcs off) t = .next { t with
      pc := if (s.operand o).toNat ≤ s.a.toNat then t.relTarget off else t.pc + 2 } ∧
    exec (.beq off) t = .next { t with pc := if s.a = s.operand o then t.relTarget off else t.pc + 2 } ∧
    exec (.bne off) t = .next { t with pc := if s.a = s.operand o then t.pc + 2 else t.relTarget off }

/-! ### Logic, shifts, increments -/

/-- AND, ORA, EOR, in every form (R100 to R102). -/
def Obligations.LogicSetsANZ : Prop :=
  ∀ (o : ReadOperand) (s : State),
    let m := s.operand o
    let pc := s.pc + BitVec.ofNat 16 o.len
    let bus := (s.afterOperand o).bus
    let nz (v : Byte) : Flags := { s.p with n := v.msb, z := v == 0 }
    runsTo (.and o) s { s with a := s.a &&& m, p := nz (s.a &&& m), pc := pc, bus := bus } ∧
    runsTo (.ora o) s { s with a := s.a ||| m, p := nz (s.a ||| m), pc := pc, bus := bus } ∧
    runsTo (.eor o) s { s with a := s.a ^^^ m, p := nz (s.a ^^^ m), pc := pc, bus := bus }

/-- The four shifts as arithmetic, the bit that leaves, and that ROR undoes ROL and ROL undoes ROR
(R103 to R106). -/
def Obligations.ShiftsAsArithmetic : Prop :=
  ∀ (v : Byte) (c : Bool),
    (shiftAsl v c).r.toNat = 2 * v.toNat % 256 ∧ (shiftAsl v c).c = v.getLsbD 7 ∧
    (shiftLsr v c).r.toNat = v.toNat / 2 ∧ (shiftLsr v c).c = v.getLsbD 0 ∧
    (shiftRol v c).r.toNat = (2 * v.toNat + c.toNat) % 256 ∧ (shiftRol v c).c = v.getLsbD 7 ∧
    (shiftRor v c).r.toNat = v.toNat / 2 + 128 * c.toNat ∧ (shiftRor v c).c = v.getLsbD 0 ∧
    shiftRor (shiftRol v c).r (shiftRol v c).c = { r := v, c := c } ∧
    shiftRol (shiftRor v c).r (shiftRor v c).c = { r := v, c := c }

/-- ASL, LSR, ROL, ROR in the form A (R103 to R106). -/
def Obligations.ShiftsOfTheAccumulator : Prop :=
  ∀ s : State,
    let after (q : ShiftResult) : State :=
      { s with a := q.r, p := { s.p with n := q.r.msb, z := q.r == 0, c := q.c }, pc := s.pc + 1 }
    runsTo (.asl .acc) s (after (shiftAsl s.a s.p.c)) ∧
    runsTo (.lsr .acc) s (after (shiftLsr s.a s.p.c)) ∧
    runsTo (.rol .acc) s (after (shiftRol s.a s.p.c)) ∧
    runsTo (.ror .acc) s (after (shiftRor s.a s.p.c))

/-- ASL, LSR, ROL, ROR in the memory forms: one read at EA, the shifted byte written back there, A stays (R35, R103 to
R106). -/
def Obligations.ShiftsOfMemory : Prop :=
  ∀ (m : EaMode) (s : State),
    let v := (s.afterEa m).memRead (s.ea m)
    let p (q : ShiftResult) : Flags := { s.p with n := q.r.msb, z := q.r == 0, c := q.c }
    (∃ t, exec (.asl (.mem m)) s = .next t ∧
      updatesAt s t m (shiftAsl v s.p.c).r s.a (p (shiftAsl v s.p.c))) ∧
    (∃ t, exec (.lsr (.mem m)) s = .next t ∧
      updatesAt s t m (shiftLsr v s.p.c).r s.a (p (shiftLsr v s.p.c))) ∧
    (∃ t, exec (.rol (.mem m)) s = .next t ∧
      updatesAt s t m (shiftRol v s.p.c).r s.a (p (shiftRol v s.p.c))) ∧
    (∃ t, exec (.ror (.mem m)) s = .next t ∧
      updatesAt s t m (shiftRor v s.p.c).r s.a (p (shiftRor v s.p.c)))

/-- INC and DEC: the byte at EA wraps modulo 256; N and Z of the new byte, no other flag (R165, R166). -/
def Obligations.IncrementAndDecrementMemory : Prop :=
  ∀ (m : EaMode) (s : State),
    let v := (s.afterEa m).memRead (s.ea m)
    let p (r : Byte) : Flags := { s.p with n := r.msb, z := r == 0 }
    (∃ t, exec (.inc m) s = .next t ∧ updatesAt s t m (v + 1) s.a (p (v + 1))) ∧
    (∃ t, exec (.dec m) s = .next t ∧ updatesAt s t m (v - 1) s.a (p (v - 1)))

/-- INX, INY, DEX, DEY and the documented NOP, with their opcodes (R167 to R171). -/
def Obligations.IndexIncrementsAndNop : Prop :=
  decodesTo [0xE8] .inx ∧ decodesTo [0xC8] .iny ∧ decodesTo [0xCA] .dex ∧ decodesTo [0x88] .dey ∧
  decodesTo [0xEA] .nop ∧
  ∀ s : State,
    let nz (v : Byte) : Flags := { s.p with n := v.msb, z := v == 0 }
    runsTo .inx s { s with x := s.x + 1, p := nz (s.x + 1), pc := s.pc + 1 } ∧
    runsTo .iny s { s with y := s.y + 1, p := nz (s.y + 1), pc := s.pc + 1 } ∧
    runsTo .dex s { s with x := s.x - 1, p := nz (s.x - 1), pc := s.pc + 1 } ∧
    runsTo .dey s { s with y := s.y - 1, p := nz (s.y - 1), pc := s.pc + 1 } ∧
    runsTo .nop s { s with pc := s.pc + 1 }

/-! ### Branches, flags, transfers, stack -/

/-- The eight branches, with their opcodes: PC is the target where the tested flag has the value, else the next
instruction, and nothing else changes (R111 to R118). -/
def Obligations.BranchesTestOneFlag : Prop :=
  ∀ (off : Byte) (s : State),
    let go (cond : Bool) : State :=
      { s with pc := if cond = true then s.pc + 2 + off.signExtend 16 else s.pc + 2 }
    (decodesTo [0x10, off] (.bpl off) ∧ runsTo (.bpl off) s (go (s.p.n == false))) ∧
    (decodesTo [0x30, off] (.bmi off) ∧ runsTo (.bmi off) s (go (s.p.n == true))) ∧
    (decodesTo [0x50, off] (.bvc off) ∧ runsTo (.bvc off) s (go (s.p.v == false))) ∧
    (decodesTo [0x70, off] (.bvs off) ∧ runsTo (.bvs off) s (go (s.p.v == true))) ∧
    (decodesTo [0x90, off] (.bcc off) ∧ runsTo (.bcc off) s (go (s.p.c == false))) ∧
    (decodesTo [0xB0, off] (.bcs off) ∧ runsTo (.bcs off) s (go (s.p.c == true))) ∧
    (decodesTo [0xD0, off] (.bne off) ∧ runsTo (.bne off) s (go (s.p.z == false))) ∧
    (decodesTo [0xF0, off] (.beq off) ∧ runsTo (.beq off) s (go (s.p.z == true)))

/-- The seven flag instructions, with their opcodes: one flag, and nothing else (R130 to R136). -/
def Obligations.FlagInstructionsWriteOneFlag : Prop :=
  ∀ s : State,
    let after (p : Flags) : State := { s with p := p, pc := s.pc + 1 }
    (decodesTo [0x18] .clc ∧ runsTo .clc s (after { s.p with c := false })) ∧
    (decodesTo [0x38] .sec ∧ runsTo .sec s (after { s.p with c := true })) ∧
    (decodesTo [0x58] .cli ∧ runsTo .cli s (after { s.p with i := false })) ∧
    (decodesTo [0x78] .sei ∧ runsTo .sei s (after { s.p with i := true })) ∧
    (decodesTo [0xB8] .clv ∧ runsTo .clv s (after { s.p with v := false })) ∧
    (decodesTo [0xD8] .cld ∧ runsTo .cld s (after { s.p with d := false })) ∧
    (decodesTo [0xF8] .sed ∧ runsTo .sed s (after { s.p with d := true }))

/-- The six transfers, with their opcodes; TXS writes no flag (R140 to R145). -/
def Obligations.TransfersCopyOneRegister : Prop :=
  ∀ s : State,
    let nz (v : Byte) : Flags := { s.p with n := v.msb, z := v == 0 }
    (decodesTo [0xAA] .tax ∧ runsTo .tax s { s with x := s.a, p := nz s.a, pc := s.pc + 1 }) ∧
    (decodesTo [0x8A] .txa ∧ runsTo .txa s { s with a := s.x, p := nz s.x, pc := s.pc + 1 }) ∧
    (decodesTo [0xA8] .tay ∧ runsTo .tay s { s with y := s.a, p := nz s.a, pc := s.pc + 1 }) ∧
    (decodesTo [0x98] .tya ∧ runsTo .tya s { s with a := s.y, p := nz s.y, pc := s.pc + 1 }) ∧
    (decodesTo [0xBA] .tsx ∧ runsTo .tsx s { s with x := s.sp, p := nz s.sp, pc := s.pc + 1 }) ∧
    (decodesTo [0x9A] .txs ∧ runsTo .txs s { s with sp := s.x, pc := s.pc + 1 })

/-- PHA, PHP, PLA, PLP, with their opcodes: the byte stored or read is at `0x01:S`, S moves by one, wrapping, and
nothing else changes (R150 to R153). -/
def Obligations.StackInstructions : Prop :=
  decodesTo [0x48] .pha ∧ decodesTo [0x68] .pla ∧ decodesTo [0x08] .php ∧ decodesTo [0x28] .plp ∧
  ∀ s : State,
    let v := s.memRead (stackAddr (s.sp + 1))
    let read := (s.afterRead (stackAddr (s.sp + 1))).bus
    let stored (v : Byte) : Bus := (s.memWrite (stackAddr s.sp) v).bus
    (∃ t, exec .pha s = .next t ∧ storesOnly s t (stackAddr s.sp) s.a ∧
      t = { s with sp := s.sp - 1, pc := s.pc + 1, bus := stored s.a }) ∧
    (∃ t, exec .php s = .next t ∧ storesOnly s t (stackAddr s.sp) (s.p.toByte true) ∧
      t = { s with sp := s.sp - 1, pc := s.pc + 1, bus := stored (s.p.toByte true) }) ∧
    runsTo .pla s
      { s with
        a := v
        p := { s.p with n := v.msb, z := v == 0 }
        sp := s.sp + 1
        pc := s.pc + 1
        bus := read } ∧
    runsTo .plp s
      { s with
        p := { n := v.getLsbD 7, v := v.getLsbD 6, d := v.getLsbD 3, i := v.getLsbD 2,
               z := v.getLsbD 1, c := v.getLsbD 0 }
        sp := s.sp + 1
        pc := s.pc + 1
        bus := read }

/-- Where the stack is RAM (R37): PHP and, in whatever state shares its stack, PLP brings back the flags and S
(R15, R16, R152, R153). -/
def Obligations.PullStatusUndoesPushStatus : Prop :=
  ∀ (s : State) (q : Flags) (w : Word), stackIsRam s → ∃ t u,
    exec .php s = .next t ∧ exec .plp { t with p := q, pc := w } = .next u ∧
    u.p = s.p ∧ u.pc = w + 1 ∧ sameRegisters s u ∧ sameMode s u ∧ u.bus = t.bus

/-! ### Subroutines and traps -/

/-- BRK takes the trap of R201, whatever I holds. -/
def Obligations.BreakTakesTheTrap : Prop :=
  decodesTo [0x00] .brk ∧
  ∀ s : State, ∃ t, exec .brk s = .next t ∧ trapEntered s t (s.pc + 2) (s.p.toByte true) 0xFFFE

/-- RTI pulls the status byte, then the address, low byte first, and goes there; RTS pulls the address and goes one
past it (R121, R123). -/
def Obligations.ReturnsPullTheAddress : Prop :=
  decodesTo [0x40] .rti ∧ decodesTo [0x60] .rts ∧
  ∀ s : State,
    let one := s.afterRead (stackAddr (s.sp + 1))
    let two := one.afterRead (stackAddr (s.sp + 2))
    let b1 := s.memRead (stackAddr (s.sp + 1))
    let b2 := one.memRead (stackAddr (s.sp + 2))
    let b3 := two.memRead (stackAddr (s.sp + 3))
    runsTo .rti s
      { s with
        p := { n := b1.getLsbD 7, v := b1.getLsbD 6, d := b1.getLsbD 3, i := b1.getLsbD 2,
               z := b1.getLsbD 1, c := b1.getLsbD 0 }
        pc := hilo b3 b2
        sp := s.sp + 3
        bus := (two.afterRead (stackAddr (s.sp + 3))).bus } ∧
    runsTo .rts s { s with pc := hilo b2 b1 + 1, sp := s.sp + 2, bus := two.bus }

/-- Where the stack is RAM (R37): RTI in the handler's first state, or in any state that has the same stack, resumes two
bytes after the BRK with the flags and S of before (R207). -/
def Obligations.ReturnAfterBreakResumesPastTheSignature : Prop :=
  ∀ (s : State) (q : Flags) (w : Word), stackIsRam s → ∃ t u,
    exec .brk s = .next t ∧ exec .rti { t with p := q, pc := w } = .next u ∧
    u.pc = s.pc + 2 ∧ u.p = s.p ∧ sameRegisters s u ∧ sameMode s u ∧ u.bus = t.bus

/-- JSR pushes the address of its own last byte, high byte first, and jumps; the high byte of the target is read from
that last byte after the pushes, so a push that lands on it is what is read (R122). -/
def Obligations.JumpToSubroutine : Prop :=
  ∀ (s : State) (target : Word), ∃ t, exec (.jsr target) s = .next t ∧
    let ret := s.pc + 2
    let pushed := (s.push (hiByte ret)).push (loByte ret)
    t = { s with
      sp := s.sp - 2
      pc := hilo (pushed.memRead ret) (loByte target)
      bus := (pushed.afterRead ret).bus } ∧
    (ramAt s (stackAddr s.sp) → t.memRead (stackAddr s.sp) = hiByte ret) ∧
    (ramAt s (stackAddr (s.sp - 1)) → t.memRead (stackAddr (s.sp - 1)) = loByte ret) ∧
    (∀ b, ¬ deviceAt s b → busAddr b ≠ busAddr (stackAddr s.sp) →
      busAddr b ≠ busAddr (stackAddr (s.sp - 1)) → t.memRead b = s.memRead b) ∧
    (stackIsRam s → ¬ deviceAt s ret →
      hiByte t.pc =
        if busAddr ret = busAddr (stackAddr s.sp) then hiByte ret
        else if busAddr ret = busAddr (stackAddr (s.sp - 1)) then loByte ret
        else s.memRead ret)

/-- Where the stack is RAM (R37): RTS after JSR, in whatever state shares its stack, resumes three bytes after the JSR
with S as before (R122, R123). -/
def Obligations.ReturnFromSubroutineResumesAfterTheCall : Prop :=
  ∀ (s : State) (target w : Word) (q : Flags), stackIsRam s → ∃ t u,
    exec (.jsr target) s = .next t ∧ exec .rts { t with p := q, pc := w } = .next u ∧
    u.pc = s.pc + 3 ∧ u.p = q ∧ sameRegisters s u ∧ sameMode s u ∧ u.bus = t.bus

/-! ### The undocumented rows -/

/-- Each of the eight JAM bytes sets `jammed` and nothing else, and the state after it has no step
(R18, R180). That PC stays at the JAM, where R180 leaves it unspecified, and that the stuck state, which R180 calls no
fault of the chip, is the outcome `.fault .jammed` of a step, are the model's (log 7). -/
def Obligations.JamSetsJammedOnly : Prop :=
  ∀ op ∈ ([0x02, 0x12, 0x22, 0x32, 0x42, 0x52, 0x62, 0x72] : List Byte),
    decodesTo [op] (.jam op) ∧
    ∀ s : State, runsTo (.jam op) s { s with jammed := true } ∧
      step { s with jammed := true } = .fault .jammed

/-- SLO, RLA, SRE, RRA, in every form: the shifted byte goes to EA, and A and the flags come from the combination of A
and the new byte; RRA adds with the bit rotated out as carry in (R182 to R185). -/
def Obligations.ShiftAndCombine : Prop :=
  ∀ (m : EaMode) (s : State),
    let v := (s.afterEa m).memRead (s.ea m)
    let l := shiftAsl v s.p.c
    let rl := shiftRol v s.p.c
    let r := shiftLsr v s.p.c
    let rr := shiftRor v s.p.c
    let nzc (b : Byte) (c : Bool) : Flags := { s.p with n := b.msb, z := b == 0, c := c }
    let sum := if s.p.d = true then bcdAdc s.a rr.r rr.c else adcBin s.a rr.r rr.c
    (∃ t, exec (.slo m) s = .next t ∧ updatesAt s t m l.r (s.a ||| l.r) (nzc (s.a ||| l.r) l.c)) ∧
    (∃ t, exec (.rla m) s = .next t ∧ updatesAt s t m rl.r (s.a &&& rl.r) (nzc (s.a &&& rl.r) rl.c)) ∧
    (∃ t, exec (.sre m) s = .next t ∧ updatesAt s t m r.r (s.a ^^^ r.r) (nzc (s.a ^^^ r.r) r.c)) ∧
    (∃ t, exec (.rra m) s = .next t ∧
      updatesAt s t m rr.r sum.r { s.p with n := sum.n, v := sum.v, z := sum.z, c := sum.c })

/-- ANC, both opcodes, and ALR; ARR where D is 0, and its refusal where D is 1 (R186, R187, R189). -/
def Obligations.ImmediateCombinations : Prop :=
  ∀ (op b1 : Byte) (s : State),
    let t := s.a &&& b1
    let l := t >>> 1
    let r := t >>> 1 ||| (if s.p.c = true then 0x80 else 0x00)
    runsTo (.anc op b1) s
      { s with a := t, p := { s.p with n := t.msb, z := t == 0, c := t.getLsbD 7 }, pc := s.pc + 2 } ∧
    runsTo (.alr b1) s
      { s with a := l, p := { s.p with n := false, z := l == 0, c := t.getLsbD 0 }, pc := s.pc + 2 } ∧
    (s.p.d = false → runsTo (.arr b1) s
      { s with
        a := r
        p := { s.p with n := r.msb, z := r == 0, c := r.getLsbD 6, v := r.getLsbD 6 ^^ r.getLsbD 5 }
        pc := s.pc + 2 }) ∧
    (s.p.d = true → exec (.arr b1) s = .refused .arrDecimal)

/-- The undocumented NOP, in every shape: PC moves by the length of the mode, a memory form reads its operand byte and
discards it, and nothing else changes (R188). -/
def Obligations.UndocumentedNopMovesPcOnly : Prop :=
  ∀ (op : Byte) (s : State),
    runsTo (.nopUndoc op .impl) s { s with pc := s.pc + 1 } ∧
    ∀ m : EaMode, runsTo (.nopUndoc op (.mem m)) s
      { s with pc := s.pc + BitVec.ofNat 16 m.len, bus := ((s.afterEa m).afterRead (s.ea m)).bus }

/-- The 53 bytes without a row are refused, by the meaning and by the step, whatever ADMIT_UNDOCUMENTED is (R190). That
the decoder takes one byte for each, where R190 gives no length, is the model's choice (log 9). -/
def Obligations.UnlistedBytesAreRefused : Prop :=
  unlistedOpcodes.length = 53 ∧
  ∀ op ∈ unlistedOpcodes, (∀ rest, decode (op :: rest) = .ok (.unlisted op, rest)) ∧
    ∀ s : State, exec (.unlisted op) s = .refused (.unlistedOpcode op) ∧
      (s.jammed = false → s.memRead s.pc = op → step s = .refused (.unlistedOpcode op))

/-! ### The whole machine -/

/-- A step runs the instruction that the bytes at PC decode to, where it is not tier 2 or tier 2 is admitted, in the
state after the reads of its bytes, which differs in the bus alone, and not at all where none of them is a device. The
third byte of a JSR is read by its body (R50, R181). -/
def Obligations.StepRunsTheDecodedInstruction : Prop :=
  ∀ (s : State) (i : Instr) (rest : List Byte),
    let one := s.afterRead s.pc
    let two := one.afterRead (s.pc + 1)
    let read := match (match i with | .jsr _ => 2 | _ => i.len) with
      | 1 => one
      | 2 => two
      | _ => two.afterRead (s.pc + 2)
    s.jammed = false → (i.tier = 2 → s.admitUndocumented = true) →
    decode [s.memRead s.pc, one.memRead (s.pc + 1), two.memRead (s.pc + 2)] = .ok (i, rest) →
    step s = exec i read ∧ read = { s with bus := read.bus } ∧
    (¬ deviceAt s s.pc → ¬ deviceAt s (s.pc + 1) → ¬ deviceAt s (s.pc + 2) → read = s)

/-- A step runs any well-formed instruction whose encoding lies in memory at PC, the addresses wrapping modulo 65536
(R13, R50). -/
def Obligations.StepRunsTheEncodedInstruction : Prop :=
  ∀ (s : State) (i : Instr),
    s.jammed = false → i.wf = true → (i.tier = 2 → s.admitUndocumented = true) →
    (∀ k, k < (encode i).length → ¬ deviceAt s (s.pc + BitVec.ofNat 16 k) ∧
      s.memRead (s.pc + BitVec.ofNat 16 k) = (encode i).getD k 0) →
    step s = exec i s

/-- Where a step stops, and why: a fault exactly where `jammed` is set, a refusal exactly for an unlisted byte, tier 2
not admitted, or ARR with D set; in every other state it answers a next state (R18, R50, R181, R189, R190, R200;
the stops are outcomes of the model, logs 4, 7, 8 and 9). -/
def Obligations.StepStopsExactlyWhereTheRulesSay : Prop :=
  ∀ s : State,
    (∀ f, step s = .fault f ↔ s.jammed = true ∧ f = .jammed) ∧
    (∀ r, step s = .refused r ↔ s.jammed = false ∧
      ((∃ op, s.fetch = .unlisted op ∧ r = .unlistedOpcode op) ∨
       (s.fetch.tier = 2 ∧ s.admitUndocumented = false ∧ r = .undocumentedNotAdmitted) ∨
       (∃ b1, s.fetch = .arr b1 ∧ s.admitUndocumented = true ∧ s.p.d = true ∧ r = .arrDecimal)))

/-- The marks of the table of R17, for every instruction: a flag marked `-` is kept, `0` is cleared, `1` is set, `M7` and
`M6` are bits 7 and 6 of BIT's operand, "from stack" is the flag's bit of the byte pulled. Of a `+` nothing is said
here: the statement of the instruction's own rule gives the value. -/
def Obligations.FlagsChangeAsTabled : Prop :=
  ∀ (i : Instr) (s t : State), exec i s = .next t → (flagLine s i).holds s.p t.p

/-- Only the instructions that R10, R11 and R12 list write A, X, Y and S, only those with a store or a push in
their rule write memory, only JAM sets `jammed` and nothing clears it (R18), and none changes
the bus instance or ADMIT_UNDOCUMENTED. -/
def Obligations.OnlyListedInstructionsWrite : Prop :=
  ∀ (i : Instr) (s t : State), exec i s = .next t →
    (writesA i = false → t.a = s.a) ∧ (writesX i = false → t.x = s.x) ∧
    (writesY i = false → t.y = s.y) ∧ (writesS i = false → t.sp = s.sp) ∧
    (writesMemory i = false → sameMemory s t) ∧
    ((∃ op, i = .jam op) → t.jammed = true) ∧ ((∀ op, i ≠ .jam op) → t.jammed = s.jammed) ∧
    t.bus.regions = s.bus.regions ∧ t.admitUndocumented = s.admitUndocumented

/-- Every instruction that is not a branch, jump, call, return, BRK or JAM ends at the instruction after it (R13). -/
def Obligations.PcMovesPastTheInstruction : Prop :=
  ∀ (i : Instr) (s t : State), exec i s = .next t → movesPc i = false →
    t.pc = s.pc + BitVec.ofNat 16 i.len

/-- The list of bus accesses refines the meaning: replayed on the bus in order, they give exactly the bus after the
instruction, the reads that devices see included; those of a step are the reads of the instruction's bytes, all of them
but for JSR, which reads its third after its pushes, and then those of the body (R31, R35, R39). -/
def Obligations.AccessesReplayTheInstruction : Prop :=
  (∀ (i : Instr) (s t : State), exec i s = .next t → t.bus = s.bus.replay (s.bodyAccesses i)) ∧
  (∀ s t : State, step s = .next t → t.bus = s.bus.replay s.accesses) ∧
  (∀ s : State,
    let fetched := (List.range (match s.fetch with | .jsr _ => 2 | i => i.len)).map
      fun k => Access.read ((s.pc + BitVec.ofNat 16 k).toNat % 8192)
    s.accesses = fetched ++ State.bodyAccesses { s with bus := s.bus.replay fetched } s.fetch)

/-- The reset step: enabled in every state, jammed or not; I set, `jammed` cleared, PC read from the reset vector, low
byte first, the rest from the draw, memory untouched (R20, R220). -/
def Obligations.ResetStepEffect : Prop :=
  ∀ (s : State) (r : ResetDraw),
    let read := s.afterRead 0xFFFC
    agentStep (.reset r) s = .next
      { a := r.a, x := r.x, y := r.y, sp := r.sp
        pc := hilo (read.memRead 0xFFFD) (s.memRead 0xFFFC)
        p := { n := r.n, v := r.v, d := r.d, i := true, z := r.z, c := r.c }
        jammed := false
        admitUndocumented := s.admitUndocumented
        bus := (read.afterRead 0xFFFD).bus } ∧
    sameMemory s (s.resetStep r) ∧ (s.resetStep r).bus.mem = s.bus.mem

/-- No interrupt is ever taken on the 6507, whatever the lines do (R203). -/
def Obligations.NoInterruptIsTaken : Prop :=
  Config.hasIrq = false ∧ Config.hasNmi = false ∧
  ∀ (l : InterruptLines) (s : State), stepWithLines l s = step s

/-- The mechanism of R204 for a core with both inputs: NMI before IRQ, IRQ only where I is 0, the entry of R201 with the
next instruction's address, bit 4 clear and the vector of its own; where the stack is RAM the handler's test of R208
tells BRK from it. The poll with I as it stands, at every boundary, is the model's choice on points that R204 leaves
open (log 13). -/
def Obligations.InterruptEntry : Prop :=
  ∀ (s : State) (l : InterruptLines),
    (l.nmiLatched = true → s.pollInterrupts true true l = some s.takeNmi) ∧
    (l.nmiLatched = false → l.irqAsserted = true → s.p.i = false →
      s.pollInterrupts true true l = some s.takeIrq) ∧
    (l.nmiLatched = false → (l.irqAsserted = false ∨ s.p.i = true) →
      s.pollInterrupts true true l = none) ∧
    trapEntered s s.takeNmi s.pc (s.p.toByte false) 0xFFFA ∧
    trapEntered s s.takeIrq s.pc (s.p.toByte false) 0xFFFE ∧
    (stackIsRam s → s.takeIrq.enteredByBrk = false ∧ s.takeNmi.enteredByBrk = false ∧
      ∃ t, exec .brk s = .next t ∧ t.enteredByBrk = true)

/-- The cycle counts of R231, instruction by instruction and mode by mode, with the two footnotes (R110, R161, R230): a
branch takes 2, 3 taken to the page of the next instruction, 4 to another; a read takes one more where it crosses a page,
a store and a read-modify-write never. Those of tier 2 are the spec's own values. The function stands beside the step and
nothing depends on it (log 12). -/
def Obligations.CyclesFollowTheFootnotes : Prop :=
  ∀ (s : State) (off b op : Byte) (w : Word),
    let target := s.pc + 2 + off.signExtend 16
    let branch (taken : Bool) : Option Nat :=
      some (if taken = true then (if hiByte target = hiByte (s.pc + 2) then 3 else 4) else 2)
    let reads (o : ReadOperand) (n : Nat) : Prop :=
      ∀ i ∈ [Instr.lda o, .ldx o, .ldy o, .adc o, .sbc o, .and o, .ora o, .eor o, .cmp o, .cpx o, .cpy o],
        s.cycles i = some n
    let readsAt (m : EaMode) (n : Nat) : Prop :=
      reads (.mem m) n ∧ s.cycles (.bit m) = some n ∧ s.cycles (.nopUndoc op (.mem m)) = some n
    let stores (m : EaMode) (n : Nat) : Prop := ∀ i ∈ [Instr.sta m, .stx m, .sty m], s.cycles i = some n
    let updates (m : EaMode) (n : Nat) : Prop :=
      ∀ i ∈ [Instr.asl (.mem m), .lsr (.mem m), .rol (.mem m), .ror (.mem m), .inc m, .dec m,
        .slo m, .rla m, .sre m, .rra m], s.cycles i = some n
    let crossing (n : Nat) (sum : Nat) : Nat := if 0x100 ≤ sum then n + 1 else n
    (s.cycles (.bpl off) = branch (s.p.n == false) ∧ s.cycles (.bmi off) = branch (s.p.n == true) ∧
      s.cycles (.bvc off) = branch (s.p.v == false) ∧ s.cycles (.bvs off) = branch (s.p.v == true) ∧
      s.cycles (.bcc off) = branch (s.p.c == false) ∧ s.cycles (.bcs off) = branch (s.p.c == true) ∧
      s.cycles (.bne off) = branch (s.p.z == false) ∧ s.cycles (.beq off) = branch (s.p.z == true)) ∧
    (reads (.imm b) 2 ∧ readsAt (.zpg b) 3 ∧ readsAt (.zpgX b) 4 ∧ readsAt (.zpgY b) 4 ∧ readsAt (.abs w) 4 ∧
      readsAt (.absX w) (crossing 4 ((loByte w).toNat + s.x.toNat)) ∧
      readsAt (.absY w) (crossing 4 ((loByte w).toNat + s.y.toNat)) ∧ readsAt (.xInd b) 6 ∧
      readsAt (.indY b) (crossing 5 ((s.memRead (hilo 0 b)).toNat + s.y.toNat))) ∧
    (stores (.zpg b) 3 ∧ stores (.zpgX b) 4 ∧ stores (.zpgY b) 4 ∧ stores (.abs w) 4 ∧ stores (.absX w) 5 ∧
      stores (.absY w) 5 ∧ stores (.xInd b) 6 ∧ stores (.indY b) 6) ∧
    (updates (.zpg b) 5 ∧ updates (.zpgX b) 6 ∧ updates (.abs w) 6 ∧ updates (.absX w) 7 ∧ updates (.absY w) 7 ∧
      updates (.xInd b) 8 ∧ updates (.indY b) 8) ∧
    (∀ i ∈ [Instr.asl .acc, .lsr .acc, .rol .acc, .ror .acc, .clc, .sec, .cli, .sei, .clv, .cld, .sed, .tax, .txa,
      .tay, .tya, .tsx, .txs, .inx, .iny, .dex, .dey, .nop, .anc op b, .alr b, .arr b, .nopUndoc op .impl],
      s.cycles i = some 2) ∧
    s.cycles .pha = some 3 ∧ s.cycles .php = some 3 ∧ s.cycles .pla = some 4 ∧ s.cycles .plp = some 4 ∧
    s.cycles (.jmp (.abs w)) = some 3 ∧ s.cycles (.jmp (.ind w)) = some 5 ∧ s.cycles (.jsr w) = some 6 ∧
    s.cycles .rts = some 6 ∧ s.cycles .rti = some 6 ∧ s.cycles .brk = some 7 ∧ s.cycles (.jam op) = none
end

