-- ==== Sys2Proof/Laws/State.lean ====
section
/-! SUPPORT. One lemma for each field of the state under each named update, so that no proof unfolds a record
update, and the same for the flags. -/

namespace Sys2Proof.Machine

variable (s : State)

@[simp] theorem State.afterRead_a (addr : Word) : (s.afterRead addr).a = s.a := rfl
@[simp] theorem State.afterRead_x (addr : Word) : (s.afterRead addr).x = s.x := rfl
@[simp] theorem State.afterRead_y (addr : Word) : (s.afterRead addr).y = s.y := rfl
@[simp] theorem State.afterRead_sp (addr : Word) : (s.afterRead addr).sp = s.sp := rfl
@[simp] theorem State.afterRead_pc (addr : Word) : (s.afterRead addr).pc = s.pc := rfl
@[simp] theorem State.afterRead_p (addr : Word) : (s.afterRead addr).p = s.p := rfl
@[simp] theorem State.afterRead_jammed (addr : Word) : (s.afterRead addr).jammed = s.jammed := rfl
@[simp] theorem State.afterRead_admitUndocumented (addr : Word) : (s.afterRead addr).admitUndocumented = s.admitUndocumented := rfl
@[simp] theorem State.afterRead_bus (addr : Word) :
    (s.afterRead addr).bus = (s.bus.read (busAddr addr)).2 := rfl

@[simp] theorem State.afterPair_a (lo hi : Word) : (s.afterPair lo hi).a = s.a := rfl
@[simp] theorem State.afterPair_x (lo hi : Word) : (s.afterPair lo hi).x = s.x := rfl
@[simp] theorem State.afterPair_y (lo hi : Word) : (s.afterPair lo hi).y = s.y := rfl
@[simp] theorem State.afterPair_sp (lo hi : Word) : (s.afterPair lo hi).sp = s.sp := rfl
@[simp] theorem State.afterPair_pc (lo hi : Word) : (s.afterPair lo hi).pc = s.pc := rfl
@[simp] theorem State.afterPair_p (lo hi : Word) : (s.afterPair lo hi).p = s.p := rfl
@[simp] theorem State.afterPair_jammed (lo hi : Word) : (s.afterPair lo hi).jammed = s.jammed := rfl
@[simp] theorem State.afterPair_admitUndocumented (lo hi : Word) :
    (s.afterPair lo hi).admitUndocumented = s.admitUndocumented := rfl

@[simp] theorem State.memWrite_a (addr : Word) (v : Byte) : (s.memWrite addr v).a = s.a := rfl
@[simp] theorem State.memWrite_x (addr : Word) (v : Byte) : (s.memWrite addr v).x = s.x := rfl
@[simp] theorem State.memWrite_y (addr : Word) (v : Byte) : (s.memWrite addr v).y = s.y := rfl
@[simp] theorem State.memWrite_sp (addr : Word) (v : Byte) : (s.memWrite addr v).sp = s.sp := rfl
@[simp] theorem State.memWrite_pc (addr : Word) (v : Byte) : (s.memWrite addr v).pc = s.pc := rfl
@[simp] theorem State.memWrite_p (addr : Word) (v : Byte) : (s.memWrite addr v).p = s.p := rfl
@[simp] theorem State.memWrite_jammed (addr : Word) (v : Byte) : (s.memWrite addr v).jammed = s.jammed := rfl
@[simp] theorem State.memWrite_admitUndocumented (addr : Word) (v : Byte) :
    (s.memWrite addr v).admitUndocumented = s.admitUndocumented := rfl
@[simp] theorem State.memWrite_bus (addr : Word) (v : Byte) :
    (s.memWrite addr v).bus = s.bus.write (busAddr addr) v := rfl

@[simp] theorem State.advance_a (len : Nat) : (s.advance len).a = s.a := rfl
@[simp] theorem State.advance_x (len : Nat) : (s.advance len).x = s.x := rfl
@[simp] theorem State.advance_y (len : Nat) : (s.advance len).y = s.y := rfl
@[simp] theorem State.advance_sp (len : Nat) : (s.advance len).sp = s.sp := rfl
@[simp] theorem State.advance_pc (len : Nat) : (s.advance len).pc = s.pc + BitVec.ofNat 16 len := rfl
@[simp] theorem State.advance_p (len : Nat) : (s.advance len).p = s.p := rfl
@[simp] theorem State.advance_jammed (len : Nat) : (s.advance len).jammed = s.jammed := rfl
@[simp] theorem State.advance_admitUndocumented (len : Nat) :
    (s.advance len).admitUndocumented = s.admitUndocumented := rfl
@[simp] theorem State.advance_bus (len : Nat) : (s.advance len).bus = s.bus := rfl

@[simp] theorem State.jump_a (w : Word) : (s.jump w).a = s.a := rfl
@[simp] theorem State.jump_x (w : Word) : (s.jump w).x = s.x := rfl
@[simp] theorem State.jump_y (w : Word) : (s.jump w).y = s.y := rfl
@[simp] theorem State.jump_sp (w : Word) : (s.jump w).sp = s.sp := rfl
@[simp] theorem State.jump_pc (w : Word) : (s.jump w).pc = w := rfl
@[simp] theorem State.jump_p (w : Word) : (s.jump w).p = s.p := rfl
@[simp] theorem State.jump_jammed (w : Word) : (s.jump w).jammed = s.jammed := rfl
@[simp] theorem State.jump_admitUndocumented (w : Word) : (s.jump w).admitUndocumented = s.admitUndocumented := rfl
@[simp] theorem State.jump_bus (w : Word) : (s.jump w).bus = s.bus := rfl

@[simp] theorem State.setFlags_a (p : Flags) : (s.setFlags p).a = s.a := rfl
@[simp] theorem State.setFlags_x (p : Flags) : (s.setFlags p).x = s.x := rfl
@[simp] theorem State.setFlags_y (p : Flags) : (s.setFlags p).y = s.y := rfl
@[simp] theorem State.setFlags_sp (p : Flags) : (s.setFlags p).sp = s.sp := rfl
@[simp] theorem State.setFlags_pc (p : Flags) : (s.setFlags p).pc = s.pc := rfl
@[simp] theorem State.setFlags_p (p : Flags) : (s.setFlags p).p = p := rfl
@[simp] theorem State.setFlags_jammed (p : Flags) : (s.setFlags p).jammed = s.jammed := rfl
@[simp] theorem State.setFlags_admitUndocumented (p : Flags) :
    (s.setFlags p).admitUndocumented = s.admitUndocumented := rfl
@[simp] theorem State.setFlags_bus (p : Flags) : (s.setFlags p).bus = s.bus := rfl

@[simp] theorem State.loadA_a (v : Byte) : (s.loadA v).a = v := rfl
@[simp] theorem State.loadA_x (v : Byte) : (s.loadA v).x = s.x := rfl
@[simp] theorem State.loadA_y (v : Byte) : (s.loadA v).y = s.y := rfl
@[simp] theorem State.loadA_sp (v : Byte) : (s.loadA v).sp = s.sp := rfl
@[simp] theorem State.loadA_pc (v : Byte) : (s.loadA v).pc = s.pc := rfl
@[simp] theorem State.loadA_p (v : Byte) : (s.loadA v).p = s.p.setNZ v := rfl
@[simp] theorem State.loadA_jammed (v : Byte) : (s.loadA v).jammed = s.jammed := rfl
@[simp] theorem State.loadA_admitUndocumented (v : Byte) :
    (s.loadA v).admitUndocumented = s.admitUndocumented := rfl
@[simp] theorem State.loadA_bus (v : Byte) : (s.loadA v).bus = s.bus := rfl

@[simp] theorem State.loadX_a (v : Byte) : (s.loadX v).a = s.a := rfl
@[simp] theorem State.loadX_x (v : Byte) : (s.loadX v).x = v := rfl
@[simp] theorem State.loadX_y (v : Byte) : (s.loadX v).y = s.y := rfl
@[simp] theorem State.loadX_sp (v : Byte) : (s.loadX v).sp = s.sp := rfl
@[simp] theorem State.loadX_pc (v : Byte) : (s.loadX v).pc = s.pc := rfl
@[simp] theorem State.loadX_p (v : Byte) : (s.loadX v).p = s.p.setNZ v := rfl
@[simp] theorem State.loadX_jammed (v : Byte) : (s.loadX v).jammed = s.jammed := rfl
@[simp] theorem State.loadX_admitUndocumented (v : Byte) :
    (s.loadX v).admitUndocumented = s.admitUndocumented := rfl
@[simp] theorem State.loadX_bus (v : Byte) : (s.loadX v).bus = s.bus := rfl

@[simp] theorem State.loadY_a (v : Byte) : (s.loadY v).a = s.a := rfl
@[simp] theorem State.loadY_x (v : Byte) : (s.loadY v).x = s.x := rfl
@[simp] theorem State.loadY_y (v : Byte) : (s.loadY v).y = v := rfl
@[simp] theorem State.loadY_sp (v : Byte) : (s.loadY v).sp = s.sp := rfl
@[simp] theorem State.loadY_pc (v : Byte) : (s.loadY v).pc = s.pc := rfl
@[simp] theorem State.loadY_p (v : Byte) : (s.loadY v).p = s.p.setNZ v := rfl
@[simp] theorem State.loadY_jammed (v : Byte) : (s.loadY v).jammed = s.jammed := rfl
@[simp] theorem State.loadY_admitUndocumented (v : Byte) :
    (s.loadY v).admitUndocumented = s.admitUndocumented := rfl
@[simp] theorem State.loadY_bus (v : Byte) : (s.loadY v).bus = s.bus := rfl

@[simp] theorem State.setArith_a (q : ArithResult) : (s.setArith q).a = q.r := rfl
@[simp] theorem State.setArith_x (q : ArithResult) : (s.setArith q).x = s.x := rfl
@[simp] theorem State.setArith_y (q : ArithResult) : (s.setArith q).y = s.y := rfl
@[simp] theorem State.setArith_sp (q : ArithResult) : (s.setArith q).sp = s.sp := rfl
@[simp] theorem State.setArith_pc (q : ArithResult) : (s.setArith q).pc = s.pc := rfl
@[simp] theorem State.setArith_p (q : ArithResult) : (s.setArith q).p = s.p.setArith q := rfl
@[simp] theorem State.setArith_jammed (q : ArithResult) : (s.setArith q).jammed = s.jammed := rfl
@[simp] theorem State.setArith_admitUndocumented (q : ArithResult) :
    (s.setArith q).admitUndocumented = s.admitUndocumented := rfl
@[simp] theorem State.setArith_bus (q : ArithResult) : (s.setArith q).bus = s.bus := rfl

@[simp] theorem State.compare_a (r m : Byte) : (s.compare r m).a = s.a := rfl
@[simp] theorem State.compare_x (r m : Byte) : (s.compare r m).x = s.x := rfl
@[simp] theorem State.compare_y (r m : Byte) : (s.compare r m).y = s.y := rfl
@[simp] theorem State.compare_sp (r m : Byte) : (s.compare r m).sp = s.sp := rfl
@[simp] theorem State.compare_pc (r m : Byte) : (s.compare r m).pc = s.pc := rfl
@[simp] theorem State.compare_p (r m : Byte) : (s.compare r m).p = s.p.compare r m := rfl
@[simp] theorem State.compare_jammed (r m : Byte) : (s.compare r m).jammed = s.jammed := rfl
@[simp] theorem State.compare_admitUndocumented (r m : Byte) :
    (s.compare r m).admitUndocumented = s.admitUndocumented := rfl
@[simp] theorem State.compare_bus (r m : Byte) : (s.compare r m).bus = s.bus := rfl

@[simp] theorem State.push_a (v : Byte) : (s.push v).a = s.a := rfl
@[simp] theorem State.push_x (v : Byte) : (s.push v).x = s.x := rfl
@[simp] theorem State.push_y (v : Byte) : (s.push v).y = s.y := rfl
@[simp] theorem State.push_sp (v : Byte) : (s.push v).sp = s.sp - 1 := rfl
@[simp] theorem State.push_pc (v : Byte) : (s.push v).pc = s.pc := rfl
@[simp] theorem State.push_p (v : Byte) : (s.push v).p = s.p := rfl
@[simp] theorem State.push_jammed (v : Byte) : (s.push v).jammed = s.jammed := rfl
@[simp] theorem State.push_admitUndocumented (v : Byte) : (s.push v).admitUndocumented = s.admitUndocumented := rfl
@[simp] theorem State.push_bus (v : Byte) : (s.push v).bus = s.bus.write (busAddr (stackAddr s.sp)) v := rfl

@[simp] theorem State.pull_a : (s.pull).a = s.a := rfl
@[simp] theorem State.pull_x : (s.pull).x = s.x := rfl
@[simp] theorem State.pull_y : (s.pull).y = s.y := rfl
@[simp] theorem State.pull_sp : (s.pull).sp = s.sp + 1 := rfl
@[simp] theorem State.pull_pc : (s.pull).pc = s.pc := rfl
@[simp] theorem State.pull_p : (s.pull).p = s.p := rfl
@[simp] theorem State.pull_jammed : (s.pull).jammed = s.jammed := rfl
@[simp] theorem State.pull_admitUndocumented : (s.pull).admitUndocumented = s.admitUndocumented := rfl
@[simp] theorem State.pull_bus : (s.pull).bus = (s.bus.read (busAddr (stackAddr (s.sp + 1)))).2 := rfl

@[simp] theorem State.push16_a (w : Word) : (s.push16 w).a = s.a := rfl
@[simp] theorem State.push16_x (w : Word) : (s.push16 w).x = s.x := rfl
@[simp] theorem State.push16_y (w : Word) : (s.push16 w).y = s.y := rfl
@[simp] theorem State.push16_sp (w : Word) : (s.push16 w).sp = s.sp - 1 - 1 := rfl
@[simp] theorem State.push16_pc (w : Word) : (s.push16 w).pc = s.pc := rfl
@[simp] theorem State.push16_p (w : Word) : (s.push16 w).p = s.p := rfl
@[simp] theorem State.push16_jammed (w : Word) : (s.push16 w).jammed = s.jammed := rfl
@[simp] theorem State.push16_admitUndocumented (w : Word) :
    (s.push16 w).admitUndocumented = s.admitUndocumented := rfl
@[simp] theorem State.push16_bus (w : Word) :
    (s.push16 w).bus =
      (s.bus.write (busAddr (stackAddr s.sp)) (hiByte w)).write (busAddr (stackAddr (s.sp - 1))) (loByte w) := rfl

@[simp] theorem State.pull16_a : (s.pull16).a = s.a := rfl
@[simp] theorem State.pull16_x : (s.pull16).x = s.x := rfl
@[simp] theorem State.pull16_y : (s.pull16).y = s.y := rfl
@[simp] theorem State.pull16_sp : (s.pull16).sp = s.sp + 1 + 1 := rfl
@[simp] theorem State.pull16_pc : (s.pull16).pc = s.pc := rfl
@[simp] theorem State.pull16_p : (s.pull16).p = s.p := rfl
@[simp] theorem State.pull16_jammed : (s.pull16).jammed = s.jammed := rfl
@[simp] theorem State.pull16_admitUndocumented : (s.pull16).admitUndocumented = s.admitUndocumented := rfl
@[simp] theorem State.pull16_bus : (s.pull16).bus = s.pull.pull.bus := rfl

variable (p : Flags)

@[simp] theorem Flags.setNZ_n (v : Byte) : (p.setNZ v).n = v.msb := rfl
@[simp] theorem Flags.setNZ_v (v : Byte) : (p.setNZ v).v = p.v := rfl
@[simp] theorem Flags.setNZ_d (v : Byte) : (p.setNZ v).d = p.d := rfl
@[simp] theorem Flags.setNZ_i (v : Byte) : (p.setNZ v).i = p.i := rfl
@[simp] theorem Flags.setNZ_z (v : Byte) : (p.setNZ v).z = (v == 0) := rfl
@[simp] theorem Flags.setNZ_c (v : Byte) : (p.setNZ v).c = p.c := rfl

@[simp] theorem Flags.setArith_n (q : ArithResult) : (p.setArith q).n = q.n := rfl
@[simp] theorem Flags.setArith_v (q : ArithResult) : (p.setArith q).v = q.v := rfl
@[simp] theorem Flags.setArith_d (q : ArithResult) : (p.setArith q).d = p.d := rfl
@[simp] theorem Flags.setArith_i (q : ArithResult) : (p.setArith q).i = p.i := rfl
@[simp] theorem Flags.setArith_z (q : ArithResult) : (p.setArith q).z = q.z := rfl
@[simp] theorem Flags.setArith_c (q : ArithResult) : (p.setArith q).c = q.c := rfl

@[simp] theorem Flags.setShift_n (q : ShiftResult) : (p.setShift q).n = q.r.msb := rfl
@[simp] theorem Flags.setShift_v (q : ShiftResult) : (p.setShift q).v = p.v := rfl
@[simp] theorem Flags.setShift_d (q : ShiftResult) : (p.setShift q).d = p.d := rfl
@[simp] theorem Flags.setShift_i (q : ShiftResult) : (p.setShift q).i = p.i := rfl
@[simp] theorem Flags.setShift_z (q : ShiftResult) : (p.setShift q).z = (q.r == 0) := rfl
@[simp] theorem Flags.setShift_c (q : ShiftResult) : (p.setShift q).c = q.c := rfl

@[simp] theorem Flags.compare_n (r m : Byte) : (p.compare r m).n = (r - m).msb := rfl
@[simp] theorem Flags.compare_v (r m : Byte) : (p.compare r m).v = p.v := rfl
@[simp] theorem Flags.compare_d (r m : Byte) : (p.compare r m).d = p.d := rfl
@[simp] theorem Flags.compare_i (r m : Byte) : (p.compare r m).i = p.i := rfl
@[simp] theorem Flags.compare_z (r m : Byte) : (p.compare r m).z = (r == m) := rfl
@[simp] theorem Flags.compare_c (r m : Byte) : (p.compare r m).c = decide (m.toNat ≤ r.toNat) := rfl

@[simp] theorem Flags.bitTest_n (a m : Byte) : (p.bitTest a m).n = m.getLsbD 7 := rfl
@[simp] theorem Flags.bitTest_v (a m : Byte) : (p.bitTest a m).v = m.getLsbD 6 := rfl
@[simp] theorem Flags.bitTest_d (a m : Byte) : (p.bitTest a m).d = p.d := rfl
@[simp] theorem Flags.bitTest_i (a m : Byte) : (p.bitTest a m).i = p.i := rfl
@[simp] theorem Flags.bitTest_z (a m : Byte) : (p.bitTest a m).z = (a &&& m == 0) := rfl
@[simp] theorem Flags.bitTest_c (a m : Byte) : (p.bitTest a m).c = p.c := rfl

end Sys2Proof.Machine
end

