-- ==== Sys2Proof/Laws/Memory.lean ====
section
/-! SUPPORT. Reading after writing, for every memory, and the canonical form, which every memory operation
keeps. -/

namespace Sys2Proof.Machine

/-! ### Read after write -/

theorem Memory.read_insert_same (m : Memory) (addr : Nat) (v : Byte)
    (h : ∀ cell ∈ m, cell.1 ≠ addr) : (Memory.insert addr v m).read addr = v := by
  induction m with
  | nil => simp [Memory.insert, Memory.read]
  | cons cell m ih =>
    obtain ⟨k, w⟩ := cell
    have hk : k ≠ addr := h (k, w) (by simp)
    have hm : ∀ cell ∈ m, cell.1 ≠ addr := fun c hc => h c (by simp [hc])
    by_cases hlt : addr < k <;> simp [Memory.insert, Memory.read, hlt, hk, ih hm]

theorem Memory.read_insert_other (m : Memory) {addr b : Nat} (v : Byte) (h : addr ≠ b) :
    (Memory.insert addr v m).read b = m.read b := by
  induction m with
  | nil => simp [Memory.insert, Memory.read, h]
  | cons cell m ih =>
    obtain ⟨k, w⟩ := cell
    by_cases hlt : addr < k <;> simp [Memory.insert, Memory.read, hlt, h, ih]

theorem Memory.read_filter_same (m : Memory) (addr : Nat) :
    Memory.read (m.filter fun cell => cell.1 != addr) addr = Config.unlistedByte := by
  induction m with
  | nil => rfl
  | cons cell m ih =>
    obtain ⟨k, w⟩ := cell
    by_cases hk : k = addr
    · simp [hk, ih]
    · simp [hk, Memory.read, ih]

theorem Memory.read_filter_other (m : Memory) {addr b : Nat} (h : addr ≠ b) :
    Memory.read (m.filter fun cell => cell.1 != addr) b = m.read b := by
  induction m with
  | nil => rfl
  | cons cell m ih =>
    obtain ⟨k, w⟩ := cell
    by_cases hk : k = addr
    · subst hk; simp [Memory.read, h, ih]
    · simp [hk, Memory.read, ih]

/-- A read at the address written gives the byte written. -/
@[simp] theorem Memory.read_write_same (m : Memory) (addr : Nat) (v : Byte) :
    (m.write addr v).read addr = v := by
  unfold Memory.write
  by_cases hv : v = Config.unlistedByte
  · simp only [hv, if_true]; exact Memory.read_filter_same m addr
  · simp only [hv, if_false]
    exact Memory.read_insert_same _ _ _ fun c hc => by simpa using (List.mem_filter.mp hc).2

/-- A read at another address gives what it gave before. -/
theorem Memory.read_write_other (m : Memory) {addr b : Nat} (v : Byte) (h : addr ≠ b) :
    (m.write addr v).read b = m.read b := by
  unfold Memory.write
  by_cases hv : v = Config.unlistedByte
  · simp only [hv, if_true]; exact Memory.read_filter_other m h
  · simp only [hv, if_false]
    rw [Memory.read_insert_other _ _ h, Memory.read_filter_other m h]

/-- Both cases of a read after a write. -/
theorem Memory.read_write (m : Memory) (addr b : Nat) (v : Byte) :
    (m.write addr v).read b = if addr = b then v else m.read b := by
  by_cases h : addr = b
  · subst h; simp
  · simp [h, Memory.read_write_other m v h]

/-! ### The canonical form -/

theorem Memory.risingFrom_mono {l l' : Nat} (h : l ≤ l') :
    ∀ m : Memory, Memory.risingFrom l' m = true → Memory.risingFrom l m = true
  | [], _ => rfl
  | (k, _) :: _, hm => by
    simp only [Memory.risingFrom, Bool.and_eq_true, decide_eq_true_eq] at hm ⊢
    exact ⟨le_trans h hm.1, hm.2⟩

theorem Memory.risingFrom_filter (q : Host.Cell → Bool) :
    ∀ (l : Nat) (m : Memory), Memory.risingFrom l m = true → Memory.risingFrom l (m.filter q) = true
  | _, [], _ => rfl
  | l, (k, w) :: m, hm => by
    simp only [Memory.risingFrom, Bool.and_eq_true, decide_eq_true_eq] at hm
    have ih := Memory.risingFrom_filter q (k + 1) m hm.2
    by_cases hq : q (k, w) = true
    · simp [List.filter, hq, Memory.risingFrom, hm.1, ih]
    · simp only [List.filter, hq]
      exact Memory.risingFrom_mono (by omega) _ ih

theorem Memory.risingFrom_insert (addr : Nat) (v : Byte) :
    ∀ (l : Nat) (m : Memory), l ≤ addr → (∀ cell ∈ m, cell.1 ≠ addr) →
      Memory.risingFrom l m = true → Memory.risingFrom l (Memory.insert addr v m) = true
  | l, [], hl, _, _ => by simp [Memory.insert, Memory.risingFrom, hl]
  | l, (k, w) :: m, hl, hne, hm => by
    simp only [Memory.risingFrom, Bool.and_eq_true, decide_eq_true_eq] at hm
    have hk : k ≠ addr := hne (k, w) (by simp)
    by_cases hlt : addr < k
    · have hk1 : addr + 1 ≤ k := hlt
      simp [Memory.insert, hlt, Memory.risingFrom, hl, hk1, hm.2]
    · have ih := Memory.risingFrom_insert addr v (k + 1) m (by omega)
        (fun c hc => hne c (by simp [hc])) hm.2
      simp [Memory.insert, hlt, Memory.risingFrom, hm.1, ih]

theorem Memory.mem_insert {addr : Nat} {v : Byte} :
    ∀ {m : Memory} {cell : Host.Cell}, cell ∈ Memory.insert addr v m → cell = (addr, v) ∨ cell ∈ m
  | [], _, h => by simp [Memory.insert] at h; exact .inl h
  | (k, w) :: m, cell, h => by
    by_cases hlt : addr < k
    · simpa [Memory.insert, hlt] using h
    · simp only [Memory.insert, hlt, if_false, List.mem_cons] at h ⊢
      rcases h with h | h
      · exact .inr (.inl h)
      · exact (Memory.mem_insert h).imp_right .inr

theorem Memory.wf_iff (m : Memory) :
    m.wf = true ↔ Memory.risingFrom 0 m = true ∧
      ∀ cell ∈ m, cell.1 < busSize ∧ cell.2 ≠ Config.unlistedByte := by
  simp [Memory.wf, List.all_eq_true]

theorem busAddr_lt (addr : Word) : busAddr addr < busSize := Nat.mod_lt _ (by decide)

/-- A write at a bus address keeps the canonical form. -/
theorem Memory.wf_write {m : Memory} (h : m.wf = true) {addr : Nat} (ha : addr < busSize) (v : Byte) :
    (m.write addr v).wf = true := by
  rw [Memory.wf_iff] at h ⊢
  have hf := Memory.risingFrom_filter (fun cell => cell.1 != addr) 0 m h.1
  have hin : ∀ cell ∈ m.filter (fun cell => cell.1 != addr),
      cell.1 < busSize ∧ cell.2 ≠ Config.unlistedByte := fun c hc => h.2 c (List.mem_filter.mp hc).1
  unfold Memory.write
  by_cases hv : v = Config.unlistedByte
  · simp only [hv, if_true]; exact ⟨hf, hin⟩
  · simp only [hv, if_false]
    refine ⟨Memory.risingFrom_insert addr v 0 _ (Nat.zero_le _)
      (fun c hc => by simpa using (List.mem_filter.mp hc).2) hf, fun c hc => ?_⟩
    rcases Memory.mem_insert hc with rfl | hc
    · exact ⟨ha, hv⟩
    · exact hin c hc

/-- Memory right after reset has the canonical form. -/
theorem reset_mem_wf : State.reset.bus.mem.wf = true := rfl

end Sys2Proof.Machine
end

