-- ==== Sys2Proof/Laws/Bus.lean ====
section
/-! SUPPORT. What reading and writing through the bus can do, once for each, and what that leaves of the other
reads. -/

namespace Sys2Proof.Machine

/-! ### The platform -/

/-- What stands at an address depends on the platform's map alone. -/
theorem Bus.locationAt_congr {b c : Bus} (h : c.regions = b.regions) (a : Nat) :
    c.locationAt a = b.locationAt a := by simp [Bus.locationAt, h]

/-- With no region every location is RAM (R38). -/
theorem Bus.locationAt_default {b : Bus} (h : b.regions = []) (a : Nat) : b.locationAt a = .ram := by
  simp [Bus.locationAt, h]

/-- A read of memory answers its byte and leaves the bus; a read of a device answers a free value and is one more
access. -/
theorem Bus.read_cases (b : Bus) (a : Nat) :
    (b.locationAt a ≠ .device ∧ b.read a = (b.mem.read a, b)) ∨
    (b.locationAt a = .device ∧
      b.read a = (Config.deviceByte b.events a, { b with events := .read a :: b.events })) := by
  unfold Bus.read
  cases h : b.locationAt a <;> simp

/-- A write changes the byte of RAM, nothing of ROM, and is one more access of a device. -/
theorem Bus.write_cases (b : Bus) (a : Nat) (v : Byte) :
    (b.locationAt a = .ram ∧ b.write a v = { b with mem := b.mem.write a v }) ∨
    (b.locationAt a = .rom ∧ b.write a v = b) ∨
    (b.locationAt a = .device ∧ b.write a v = { b with events := .write a v :: b.events }) := by
  unfold Bus.write
  cases h : b.locationAt a <;> simp

theorem Bus.read_of_memory {b : Bus} {a : Nat} (h : b.locationAt a ≠ .device) :
    b.read a = (b.mem.read a, b) := by
  rcases b.read_cases a with ⟨-, e⟩ | ⟨d, -⟩
  · exact e
  · exact absurd d h

@[simp] theorem Bus.read_snd_regions (b : Bus) (a : Nat) : (b.read a).2.regions = b.regions := by
  rcases b.read_cases a with ⟨-, h⟩ | ⟨-, h⟩ <;> rw [h]

@[simp] theorem Bus.read_snd_mem (b : Bus) (a : Nat) : (b.read a).2.mem = b.mem := by
  rcases b.read_cases a with ⟨-, h⟩ | ⟨-, h⟩ <;> rw [h]

@[simp] theorem Bus.write_regions (b : Bus) (a : Nat) (v : Byte) : (b.write a v).regions = b.regions := by
  rcases b.write_cases a v with ⟨-, h⟩ | ⟨-, h⟩ | ⟨-, h⟩ <;> rw [h]

@[simp] theorem Bus.read_snd_locationAt (b : Bus) (a c : Nat) : (b.read a).2.locationAt c = b.locationAt c :=
  Bus.locationAt_congr (b.read_snd_regions a) c

@[simp] theorem Bus.write_locationAt (b : Bus) (a c : Nat) (v : Byte) :
    (b.write a v).locationAt c = b.locationAt c := Bus.locationAt_congr (b.write_regions a v) c

/-- A byte of memory reads the same after any read. -/
theorem Bus.read_read {b : Bus} {c : Nat} (h : b.locationAt c ≠ .device) (a : Nat) :
    ((b.read a).2.read c).1 = (b.read c).1 := by
  have h' : (b.read a).2.locationAt c ≠ .device := by simpa using h
  rw [Bus.read_of_memory h, Bus.read_of_memory h', Bus.read_snd_mem]

/-- A byte of RAM reads as it was written. -/
theorem Bus.read_write_same {b : Bus} {a : Nat} (h : b.locationAt a = .ram) (v : Byte) :
    ((b.write a v).read a).1 = v := by
  have hd : (b.write a v).locationAt a ≠ .device := by simp [h]
  rw [Bus.read_of_memory hd]
  simp [Bus.write, h]

/-- A byte of memory reads the same after a write to another address, or to one that is not RAM. -/
theorem Bus.read_write_other {b : Bus} {a c : Nat} (hc : b.locationAt c ≠ .device)
    (h : a ≠ c ∨ b.locationAt a ≠ .ram) (v : Byte) : ((b.write a v).read c).1 = (b.read c).1 := by
  have hd : (b.write a v).locationAt c ≠ .device := by simpa using hc
  rw [Bus.read_of_memory hd, Bus.read_of_memory hc]
  rcases b.write_cases a v with ⟨hr, e⟩ | ⟨-, e⟩ | ⟨-, e⟩ <;> rw [e]
  rcases h with h | h
  · exact Memory.read_write_other _ _ h
  · exact absurd hr h

/-- A write through the bus keeps the canonical form. -/
theorem Bus.write_wf {b : Bus} (h : b.mem.wf = true) {a : Nat} (ha : a < busSize) (v : Byte) :
    (b.write a v).mem.wf = true := by
  rcases b.write_cases a v with ⟨-, e⟩ | ⟨-, e⟩ | ⟨-, e⟩ <;> rw [e]
  · exact Memory.wf_write h ha v
  all_goals exact h

/-! ### Replaying accesses -/

@[simp] theorem Bus.replay_nil (b : Bus) : b.replay [] = b := rfl

@[simp] theorem Bus.replay_cons (b : Bus) (e : Access) (l : List Access) :
    b.replay (e :: l) = (b.apply e).replay l := rfl

@[simp] theorem Bus.replay_append (b : Bus) (l l' : List Access) :
    b.replay (l ++ l') = (b.replay l).replay l' := by simp [Bus.replay]

@[simp] theorem Bus.apply_read (b : Bus) (a : Nat) : b.apply (.read a) = (b.read a).2 := rfl

@[simp] theorem Bus.apply_write (b : Bus) (a : Nat) (v : Byte) : b.apply (.write a v) = b.write a v := rfl

/-! ### The core's reads and writes -/

/-- A read depends on the bus alone. -/
theorem State.memRead_congr {s t : State} (h : t.bus = s.bus) (addr : Word) :
    t.memRead addr = s.memRead addr := by simp [State.memRead, h]

/-- A read of memory leaves the state as it is. -/
theorem State.afterRead_of_memory {s : State} {addr : Word} (h : s.bus.locationAt (busAddr addr) ≠ .device) :
    s.afterRead addr = s := by simp [State.afterRead, Bus.read_of_memory h]

/-- A byte of memory reads the same after any read. -/
theorem State.memRead_afterRead {s : State} {b : Word} (h : s.bus.locationAt (busAddr b) ≠ .device)
    (addr : Word) : (s.afterRead addr).memRead b = s.memRead b := Bus.read_read h _

/-- A byte of RAM reads as it was written. -/
theorem State.memRead_memWrite_same {s : State} {addr : Word} (h : s.bus.locationAt (busAddr addr) = .ram)
    (v : Byte) : (s.memWrite addr v).memRead addr = v := Bus.read_write_same h v

/-- A byte of memory reads the same after a write elsewhere, or to what is not RAM. -/
theorem State.memRead_memWrite_other {s : State} {addr b : Word}
    (hb : s.bus.locationAt (busAddr b) ≠ .device)
    (h : busAddr addr ≠ busAddr b ∨ s.bus.locationAt (busAddr addr) ≠ .ram) (v : Byte) :
    (s.memWrite addr v).memRead b = s.memRead b := Bus.read_write_other hb h v

/-- `MemWrite` keeps the canonical form. -/
theorem State.memWrite_wf {s : State} (h : s.bus.mem.wf = true) (addr : Word) (v : Byte) :
    (s.memWrite addr v).bus.mem.wf = true := Bus.write_wf h (busAddr_lt addr) v

/-- `Push` keeps the canonical form. -/
theorem State.push_wf {s : State} (h : s.bus.mem.wf = true) (v : Byte) : (s.push v).bus.mem.wf = true :=
  Bus.write_wf h (busAddr_lt _) v

end Sys2Proof.Machine
end

