-- ==== Sys2Proof/Laws/Ops.lean ====
section
/-! SUPPORT. What each shared operation does, once: words and the status byte, the stack, trap entry and return,
the operand forms, fetching. -/

namespace Sys2Proof.Machine

/-! ### Words -/

theorem toNat_hilo (hi lo : Byte) : (hilo hi lo).toNat = 256 * hi.toNat + lo.toNat := by
  have h : (hilo hi lo).toNat = hi.toNat <<< 8 ||| lo.toNat := BitVec.toNat_append hi lo
  rw [h, ← Nat.shiftLeft_add_eq_or_of_lt lo.isLt, Nat.shiftLeft_eq]
  omega

theorem toNat_hiByte (w : Word) : (hiByte w).toNat = w.toNat / 256 := by
  simp [hiByte, Nat.shiftRight_eq_div_pow]
  omega

theorem toNat_loByte (w : Word) : (loByte w).toNat = w.toNat % 256 := by simp [loByte]

@[simp] theorem hiByte_hilo (hi lo : Byte) : hiByte (hilo hi lo) = hi := by
  apply BitVec.eq_of_toNat_eq
  rw [toNat_hiByte, toNat_hilo]
  omega

@[simp] theorem loByte_hilo (hi lo : Byte) : loByte (hilo hi lo) = lo := by
  apply BitVec.eq_of_toNat_eq
  rw [toNat_loByte, toNat_hilo]
  omega

@[simp] theorem hilo_hiByte_loByte (w : Word) : hilo (hiByte w) (loByte w) = w := by
  apply BitVec.eq_of_toNat_eq
  rw [toNat_hilo, toNat_hiByte, toNat_loByte]
  omega

theorem hilo_inj {a b c d : Byte} (h : hilo a b = hilo c d) : a = c ∧ b = d :=
  ⟨by simpa using congrArg hiByte h, by simpa using congrArg loByte h⟩

/-! ### The status byte -/

/-- `SetP` undoes `PByte`, whatever bit 4 was pushed. -/
@[simp] theorem Flags.ofByte_toByte (p : Flags) (b : Bool) : Flags.ofByte (p.toByte b) = p := by
  obtain ⟨n, v, d, i, z, c⟩ := p
  cases n <;> cases v <;> cases d <;> cases i <;> cases z <;> cases c <;> cases b <;> rfl

/-! ### The stack -/

/-- The stack lies in page one, which every bus address reaches unchanged. -/
theorem busAddr_stackAddr (sp : Byte) : busAddr (stackAddr sp) = 256 + sp.toNat := by
  have h : (stackAddr sp).toNat = 256 + sp.toNat := by simp [stackAddr, toNat_hilo, Config.stackPage]
  have : sp.toNat < 256 := sp.isLt
  rw [busAddr, h, Nat.mod_eq_of_lt]
  show 256 + sp.toNat < 8192
  omega

theorem busAddr_stackAddr_inj {p q : Byte} :
    busAddr (stackAddr p) = busAddr (stackAddr q) ↔ p = q := by
  rw [busAddr_stackAddr, busAddr_stackAddr, Nat.add_left_cancel_iff]
  exact BitVec.toNat_inj

/-- The byte just pushed, where the stack is RAM. -/
theorem State.memRead_push_same {s : State} (h : s.bus.locationAt (busAddr (stackAddr s.sp)) = .ram)
    (v : Byte) : (s.push v).memRead (stackAddr s.sp) = v := Bus.read_write_same h v

/-- A byte of memory anywhere else reads the same after a push. -/
theorem State.memRead_push_other {s : State} {b : Word} (hb : s.bus.locationAt (busAddr b) ≠ .device)
    (h : busAddr (stackAddr s.sp) ≠ busAddr b) (v : Byte) : (s.push v).memRead b = s.memRead b :=
  Bus.read_write_other hb (.inl h) v

/-- The byte pushed is the byte the next pull returns. -/
theorem State.pulled_push {s : State} (h : s.bus.locationAt (busAddr (stackAddr s.sp)) = .ram) (v : Byte) :
    (s.push v).pulled = v := by
  have e : s.sp - 1 + 1 = s.sp := by simp
  rw [State.pulled, State.push_sp, e, State.memRead_push_same h]

/-- A byte of memory reads the same after a pull. -/
theorem State.memRead_pull {s : State} {b : Word} (h : s.bus.locationAt (busAddr b) ≠ .device) :
    s.pull.memRead b = s.memRead b := by
  rw [← State.memRead_afterRead h (stackAddr (s.sp + 1))]
  exact State.memRead_congr rfl b

theorem byte_sub_one_ne (b : Byte) : b - 1 ≠ b := by
  intro h
  simp at h

/-- The word pushed is the word two pulls return. -/
theorem State.pulled16_push16 {s : State} (h : ∀ q : Byte, s.bus.locationAt (busAddr (stackAddr q)) = .ram)
    (w : Word) : (s.push16 w).pulled16 = w := by
  have hlo : (s.push16 w).pulled = loByte w := State.pulled_push (by simp [h]) _
  have hhi : (s.push16 w).pull.pulled = hiByte w := by
    have h1 : s.sp - 1 - 1 + 1 + 1 = s.sp := by simp
    have hne : busAddr (stackAddr (s.sp - 1)) ≠ busAddr (stackAddr s.sp) := by
      rw [ne_eq, busAddr_stackAddr_inj]; exact byte_sub_one_ne s.sp
    have hp : (s.push16 w).pull.pulled = (s.push16 w).memRead (stackAddr s.sp) := by
      rw [State.pulled, State.pull_sp, State.push16_sp, h1]
      exact State.memRead_pull (by simp [h])
    have hq : (s.push (hiByte w)).bus.locationAt (busAddr (stackAddr s.sp)) ≠ .device := by simp [h]
    rw [hp, State.push16, State.memRead_push_other hq hne, State.memRead_push_same (h _)]
  rw [State.pulled16, hlo, hhi, hilo_hiByte_loByte]

theorem State.push16_wf {s : State} (h : s.bus.mem.wf = true) (w : Word) : (s.push16 w).bus.mem.wf = true :=
  State.push_wf (State.push_wf h _) _

/-! ### Trap entry and return -/

section
variable (s : State) (ret : Word) (b : Bool) (vector : Word)

@[simp] theorem State.enterTrap_a : (s.enterTrap ret b vector).a = s.a := by simp [State.enterTrap]
@[simp] theorem State.enterTrap_x : (s.enterTrap ret b vector).x = s.x := by simp [State.enterTrap]
@[simp] theorem State.enterTrap_y : (s.enterTrap ret b vector).y = s.y := by simp [State.enterTrap]
@[simp] theorem State.enterTrap_sp : (s.enterTrap ret b vector).sp = s.sp - 1 - 1 - 1 := by simp [State.enterTrap]
@[simp] theorem State.enterTrap_p : (s.enterTrap ret b vector).p = { s.p with i := true } := by simp [State.enterTrap]
@[simp] theorem State.enterTrap_jammed : (s.enterTrap ret b vector).jammed = s.jammed := by simp [State.enterTrap]
@[simp] theorem State.enterTrap_admitUndocumented :
    (s.enterTrap ret b vector).admitUndocumented = s.admitUndocumented := by simp [State.enterTrap]
@[simp] theorem State.enterTrap_pc :
    (s.enterTrap ret b vector).pc =
      ((s.push16 ret).push (s.p.toByte b)).readPair vector (vector + 1) := by
  simp only [State.enterTrap]
@[simp] theorem State.enterTrap_bus :
    (s.enterTrap ret b vector).bus =
      (((s.push16 ret).push (s.p.toByte b)).afterPair vector (vector + 1)).bus := by simp only [State.enterTrap]

end

@[simp] theorem State.afterPair_regions (s : State) (lo hi : Word) :
    (s.afterPair lo hi).bus.regions = s.bus.regions := by simp [State.afterPair]

@[simp] theorem State.afterPair_mem (s : State) (lo hi : Word) :
    (s.afterPair lo hi).bus.mem = s.bus.mem := by simp [State.afterPair]

theorem State.enterTrap_wf {s : State} (h : s.bus.mem.wf = true) (ret : Word) (b : Bool) (vector : Word) :
    (s.enterTrap ret b vector).bus.mem.wf = true := by
  rw [State.enterTrap_bus, State.afterPair_mem]
  exact State.push_wf (State.push16_wf h ret) _

@[simp] theorem State.returnFromTrap_a (s : State) : s.returnFromTrap.a = s.a := by simp [State.returnFromTrap]
@[simp] theorem State.returnFromTrap_x (s : State) : s.returnFromTrap.x = s.x := by simp [State.returnFromTrap]
@[simp] theorem State.returnFromTrap_y (s : State) : s.returnFromTrap.y = s.y := by simp [State.returnFromTrap]
@[simp] theorem State.returnFromTrap_sp (s : State) : s.returnFromTrap.sp = s.sp + 1 + 1 + 1 := by simp [State.returnFromTrap]
@[simp] theorem State.returnFromTrap_p (s : State) : s.returnFromTrap.p = Flags.ofByte s.pulled := by simp [State.returnFromTrap]
@[simp] theorem State.returnFromTrap_pc (s : State) : s.returnFromTrap.pc = s.pull.pulled16 := by simp [State.returnFromTrap]
@[simp] theorem State.returnFromTrap_bus (s : State) : s.returnFromTrap.bus = s.pull.pull16.bus := by simp only [State.returnFromTrap]
@[simp] theorem State.returnFromTrap_jammed (s : State) : s.returnFromTrap.jammed = s.jammed := by simp [State.returnFromTrap]
@[simp] theorem State.returnFromTrap_admitUndocumented (s : State) :
    s.returnFromTrap.admitUndocumented = s.admitUndocumented := by simp [State.returnFromTrap]

/-! ### Operand forms -/

/-- A branch moves PC and nothing else. -/
theorem State.branch_eq (s : State) (cond : Bool) (off : Byte) :
    s.branch cond off = { s with pc := if cond then s.relTarget off else s.pc + 2 } := by
  cases cond <;> rfl

section
variable (s : State) (m : EaMode)

@[simp] theorem State.afterEa_a : (s.afterEa m).a = s.a := by cases m <;> rfl
@[simp] theorem State.afterEa_x : (s.afterEa m).x = s.x := by cases m <;> rfl
@[simp] theorem State.afterEa_y : (s.afterEa m).y = s.y := by cases m <;> rfl
@[simp] theorem State.afterEa_sp : (s.afterEa m).sp = s.sp := by cases m <;> rfl
@[simp] theorem State.afterEa_pc : (s.afterEa m).pc = s.pc := by cases m <;> rfl
@[simp] theorem State.afterEa_p : (s.afterEa m).p = s.p := by cases m <;> rfl
@[simp] theorem State.afterEa_jammed : (s.afterEa m).jammed = s.jammed := by cases m <;> rfl
@[simp] theorem State.afterEa_admitUndocumented : (s.afterEa m).admitUndocumented = s.admitUndocumented := by
  cases m <;> rfl
@[simp] theorem State.afterEa_regions : (s.afterEa m).bus.regions = s.bus.regions := by
  cases m <;> simp [State.afterEa]
@[simp] theorem State.afterEa_mem : (s.afterEa m).bus.mem = s.bus.mem := by cases m <;> simp [State.afterEa]

/-- Reading the pointer and the byte at `EA` changes the bus alone, and of it neither map nor memory. -/
theorem State.afterByteAt_eq : s.afterByteAt m = { s with bus := (s.afterByteAt m).bus } := by
  cases m <;> rfl

@[simp] theorem State.afterByteAt_regions : (s.afterByteAt m).bus.regions = s.bus.regions := by
  simp [State.afterByteAt]
@[simp] theorem State.afterByteAt_mem : (s.afterByteAt m).bus.mem = s.bus.mem := by simp [State.afterByteAt]

/-- A read operand changes the bus alone, and of it neither map nor memory. -/
theorem State.afterOperand_eq (o : ReadOperand) : s.afterOperand o = { s with bus := (s.afterOperand o).bus } := by
  cases o with
  | imm b1 => rfl
  | mem m => exact s.afterByteAt_eq m

@[simp] theorem State.afterOperand_regions (o : ReadOperand) : (s.afterOperand o).bus.regions = s.bus.regions := by
  cases o <;> simp [State.afterOperand]
@[simp] theorem State.afterOperand_mem (o : ReadOperand) : (s.afterOperand o).bus.mem = s.bus.mem := by
  cases o <;> simp [State.afterOperand]

/-- A store changes the bus alone. -/
theorem State.storeAt_eq (v : Byte) : s.storeAt m v = { s with bus := (s.storeAt m v).bus } := by cases m <;> rfl

/-- A read and a write of the byte at `EA` change the bus alone. -/
theorem State.updateAt_eq (v : Byte) : s.updateAt m v = { s with bus := (s.updateAt m v).bus } := by cases m <;> rfl

end

/-- A shift of A writes A and the flags; a shift of memory writes one byte and the flags. -/
theorem State.shift_cases (s : State) (f : Byte → Bool → ShiftResult) (o : RmwOperand) :
    (o = .acc ∧ s.shift f o = { s with a := (f s.a s.p.c).r, p := s.p.setShift (f s.a s.p.c) }) ∨
    (∃ m, o = .mem m ∧ s.shift f o =
      (s.updateAt m (f (s.byteAt m) s.p.c).r).setFlags (s.p.setShift (f (s.byteAt m) s.p.c))) := by
  cases o with
  | acc => exact .inl ⟨rfl, rfl⟩
  | mem m => exact .inr ⟨m, rfl, rfl⟩

theorem State.storeAt_wf {s : State} (h : s.bus.mem.wf = true) (m : EaMode) (v : Byte) :
    (s.storeAt m v).bus.mem.wf = true := State.memWrite_wf (by simpa using h) _ _

theorem State.updateAt_wf {s : State} (h : s.bus.mem.wf = true) (m : EaMode) (v : Byte) :
    (s.updateAt m v).bus.mem.wf = true := State.memWrite_wf (by simpa using h) _ _

theorem State.shift_wf {s : State} (h : s.bus.mem.wf = true) (f : Byte → Bool → ShiftResult)
    (o : RmwOperand) : (s.shift f o).bus.mem.wf = true := by
  cases o with
  | acc => exact h
  | mem m => exact State.updateAt_wf h _ _

theorem State.modify_wf {s : State} (h : s.bus.mem.wf = true) (f : Byte → Byte) (m : EaMode) :
    (s.modify f m).bus.mem.wf = true := State.updateAt_wf h _ _

theorem State.shiftCombine_wf {s : State} (h : s.bus.mem.wf = true) (f : Byte → Bool → ShiftResult)
    (g : Byte → Byte → Byte) (m : EaMode) : (s.shiftCombine f g m).bus.mem.wf = true :=
  State.updateAt_wf h _ _

/-! ### Fetching -/

/-- Reads change the bus alone, and what they change is the replay of their accesses. -/
theorem State.afterReads_eq (l : List Word) : ∀ s : State,
    s.afterReads l = { s with bus := s.bus.replay (l.map fun a => .read (busAddr a)) } := by
  induction l with
  | nil => exact fun _ => rfl
  | cons a l ih => exact fun s => ih (s.afterRead a)

/-- The fetch changes the bus alone. -/
theorem State.afterFetch_eq (s : State) : s.afterFetch = { s with bus := s.afterFetch.bus } := by
  rw [State.afterFetch, State.afterReads_eq]

/-- Reads of memory change nothing. -/
theorem State.afterReads_of_memory (s : State) : ∀ l : List Word,
    (∀ a ∈ l, s.bus.locationAt (busAddr a) ≠ .device) → s.afterReads l = s
  | [], _ => rfl
  | a :: l, h => by
    rw [State.afterReads, List.foldl_cons, State.afterRead_of_memory (h a (by simp))]
    exact State.afterReads_of_memory s l fun b hb => h b (by simp [hb])

/-- `fetch` is the decoder on the bytes at PC. -/
theorem State.decode_bytesAtPc (s : State) : ∃ rest, decode s.bytesAtPc = .ok (s.fetch, rest) := by
  unfold decode State.bytesAtPc State.fetch
  cases h : opcodeRow (s.memRead s.pc) <;> simp [h, State.readPair]

end Sys2Proof.Machine
end

