-- ==== Sys2Proof/Laws/BusTrace.lean ====
section
/-! SUPPORT. What replaying the shared pieces of an access list does to the bus: what the operations they belong to
do. -/

namespace Sys2Proof.Machine

@[simp] theorem Bus.apply_readOf (b : Bus) (addr : Word) : b.apply (readOf addr) = (b.read (busAddr addr)).2 := rfl

@[simp] theorem Bus.apply_writeOf (b : Bus) (addr : Word) (v : Byte) :
    b.apply (writeOf addr v) = b.write (busAddr addr) v := rfl

theorem State.replay_fetchAccesses (s : State) : s.bus.replay (s.fetchAccesses s.fetch) = s.afterFetch.bus := by
  rw [State.afterFetch, State.afterReads_eq]; rfl

@[simp] theorem State.replay_pointerAccesses (s : State) (m : EaMode) :
    s.bus.replay (s.pointerAccesses m) = (s.afterEa m).bus := by cases m <;> rfl

@[simp] theorem State.replay_readAccesses (s : State) (m : EaMode) :
    s.bus.replay (s.readAccesses m) = (s.afterByteAt m).bus := by simp [State.readAccesses, State.afterByteAt]

@[simp] theorem State.replay_operandAccesses (s : State) (o : ReadOperand) :
    s.bus.replay (s.operandAccesses o) = (s.afterOperand o).bus := by
  cases o <;> simp [State.operandAccesses, State.afterOperand]

@[simp] theorem State.replay_storeAccesses (s : State) (m : EaMode) (v : Byte) :
    s.bus.replay (s.storeAccesses m v) = (s.storeAt m v).bus := by simp [State.storeAccesses, State.storeAt]

@[simp] theorem State.replay_modifyAccesses (s : State) (m : EaMode) (f : Byte → Byte) :
    s.bus.replay (s.modifyAccesses m f) = (s.updateAt m (f (s.byteAt m))).bus := by
  simp [State.modifyAccesses, State.updateAt]

end Sys2Proof.Machine
end

