-- ==== Sys2Proof/Laws/PerInstr.lean ====
section
/-! SUPPORT. The family EncodedLength: every well-formed instruction is encoded in as many bytes as its Bytes
entry says (R51, R53). -/

namespace Sys2Proof.Laws

/-- The encoding of a well-formed instruction has the instruction's length. -/
def EncodedLength.Statement (i : Instr) : Prop := i.wf = true → (encode i).length = i.len

theorem length_of_opcode {i : Instr} {op : Byte} (h : i.opcode = some op) :
    (encode i).length = i.operandBytes.length + 1 := by simp [encode, h]

theorem EncodedLength.lda (o : ReadOperand) : EncodedLength.Statement (.lda o) := by
  rcases o with b1 | m
  · exact fun _ => rfl
  · cases m <;> first | exact fun _ => rfl | exact fun h => nomatch h

theorem EncodedLength.ldx (o : ReadOperand) : EncodedLength.Statement (.ldx o) := by
  rcases o with b1 | m
  · exact fun _ => rfl
  · cases m <;> first | exact fun _ => rfl | exact fun h => nomatch h

theorem EncodedLength.ldy (o : ReadOperand) : EncodedLength.Statement (.ldy o) := by
  rcases o with b1 | m
  · exact fun _ => rfl
  · cases m <;> first | exact fun _ => rfl | exact fun h => nomatch h

theorem EncodedLength.sta (m : EaMode) : EncodedLength.Statement (.sta m) := by
  cases m <;> first | exact fun _ => rfl | exact fun h => nomatch h

theorem EncodedLength.stx (m : EaMode) : EncodedLength.Statement (.stx m) := by
  cases m <;> first | exact fun _ => rfl | exact fun h => nomatch h

theorem EncodedLength.sty (m : EaMode) : EncodedLength.Statement (.sty m) := by
  cases m <;> first | exact fun _ => rfl | exact fun h => nomatch h

theorem EncodedLength.adc (o : ReadOperand) : EncodedLength.Statement (.adc o) := by
  rcases o with b1 | m
  · exact fun _ => rfl
  · cases m <;> first | exact fun _ => rfl | exact fun h => nomatch h

theorem EncodedLength.sbc (o : ReadOperand) : EncodedLength.Statement (.sbc o) := by
  rcases o with b1 | m
  · exact fun _ => rfl
  · cases m <;> first | exact fun _ => rfl | exact fun h => nomatch h

theorem EncodedLength.and (o : ReadOperand) : EncodedLength.Statement (.and o) := by
  rcases o with b1 | m
  · exact fun _ => rfl
  · cases m <;> first | exact fun _ => rfl | exact fun h => nomatch h

theorem EncodedLength.ora (o : ReadOperand) : EncodedLength.Statement (.ora o) := by
  rcases o with b1 | m
  · exact fun _ => rfl
  · cases m <;> first | exact fun _ => rfl | exact fun h => nomatch h

theorem EncodedLength.eor (o : ReadOperand) : EncodedLength.Statement (.eor o) := by
  rcases o with b1 | m
  · exact fun _ => rfl
  · cases m <;> first | exact fun _ => rfl | exact fun h => nomatch h

theorem EncodedLength.asl (o : RmwOperand) : EncodedLength.Statement (.asl o) := by
  rcases o with _ | m
  · exact fun _ => rfl
  · cases m <;> first | exact fun _ => rfl | exact fun h => nomatch h

theorem EncodedLength.lsr (o : RmwOperand) : EncodedLength.Statement (.lsr o) := by
  rcases o with _ | m
  · exact fun _ => rfl
  · cases m <;> first | exact fun _ => rfl | exact fun h => nomatch h

theorem EncodedLength.rol (o : RmwOperand) : EncodedLength.Statement (.rol o) := by
  rcases o with _ | m
  · exact fun _ => rfl
  · cases m <;> first | exact fun _ => rfl | exact fun h => nomatch h

theorem EncodedLength.ror (o : RmwOperand) : EncodedLength.Statement (.ror o) := by
  rcases o with _ | m
  · exact fun _ => rfl
  · cases m <;> first | exact fun _ => rfl | exact fun h => nomatch h

theorem EncodedLength.bpl (off : Byte) : EncodedLength.Statement (.bpl off) := fun _ => rfl

theorem EncodedLength.bmi (off : Byte) : EncodedLength.Statement (.bmi off) := fun _ => rfl

theorem EncodedLength.bvc (off : Byte) : EncodedLength.Statement (.bvc off) := fun _ => rfl

theorem EncodedLength.bvs (off : Byte) : EncodedLength.Statement (.bvs off) := fun _ => rfl

theorem EncodedLength.bcc (off : Byte) : EncodedLength.Statement (.bcc off) := fun _ => rfl

theorem EncodedLength.bcs (off : Byte) : EncodedLength.Statement (.bcs off) := fun _ => rfl

theorem EncodedLength.bne (off : Byte) : EncodedLength.Statement (.bne off) := fun _ => rfl

theorem EncodedLength.beq (off : Byte) : EncodedLength.Statement (.beq off) := fun _ => rfl

theorem EncodedLength.brk : EncodedLength.Statement .brk := fun _ => rfl

theorem EncodedLength.rti : EncodedLength.Statement .rti := fun _ => rfl

theorem EncodedLength.jsr (target : Word) : EncodedLength.Statement (.jsr target) := fun _ => rfl

theorem EncodedLength.rts : EncodedLength.Statement .rts := fun _ => rfl

theorem EncodedLength.jmp (o : JmpOperand) : EncodedLength.Statement (.jmp o) := by
  cases o <;> exact fun _ => rfl

theorem EncodedLength.clc : EncodedLength.Statement .clc := fun _ => rfl

theorem EncodedLength.sec : EncodedLength.Statement .sec := fun _ => rfl

theorem EncodedLength.cli : EncodedLength.Statement .cli := fun _ => rfl

theorem EncodedLength.sei : EncodedLength.Statement .sei := fun _ => rfl

theorem EncodedLength.clv : EncodedLength.Statement .clv := fun _ => rfl

theorem EncodedLength.cld : EncodedLength.Statement .cld := fun _ => rfl

theorem EncodedLength.sed : EncodedLength.Statement .sed := fun _ => rfl

theorem EncodedLength.tax : EncodedLength.Statement .tax := fun _ => rfl

theorem EncodedLength.txa : EncodedLength.Statement .txa := fun _ => rfl

theorem EncodedLength.tay : EncodedLength.Statement .tay := fun _ => rfl

theorem EncodedLength.tya : EncodedLength.Statement .tya := fun _ => rfl

theorem EncodedLength.tsx : EncodedLength.Statement .tsx := fun _ => rfl

theorem EncodedLength.txs : EncodedLength.Statement .txs := fun _ => rfl

theorem EncodedLength.pha : EncodedLength.Statement .pha := fun _ => rfl

theorem EncodedLength.pla : EncodedLength.Statement .pla := fun _ => rfl

theorem EncodedLength.php : EncodedLength.Statement .php := fun _ => rfl

theorem EncodedLength.plp : EncodedLength.Statement .plp := fun _ => rfl

theorem EncodedLength.bit (m : EaMode) : EncodedLength.Statement (.bit m) := by
  cases m <;> first | exact fun _ => rfl | exact fun h => nomatch h

theorem EncodedLength.cmp (o : ReadOperand) : EncodedLength.Statement (.cmp o) := by
  rcases o with b1 | m
  · exact fun _ => rfl
  · cases m <;> first | exact fun _ => rfl | exact fun h => nomatch h

theorem EncodedLength.cpx (o : ReadOperand) : EncodedLength.Statement (.cpx o) := by
  rcases o with b1 | m
  · exact fun _ => rfl
  · cases m <;> first | exact fun _ => rfl | exact fun h => nomatch h

theorem EncodedLength.cpy (o : ReadOperand) : EncodedLength.Statement (.cpy o) := by
  rcases o with b1 | m
  · exact fun _ => rfl
  · cases m <;> first | exact fun _ => rfl | exact fun h => nomatch h

theorem EncodedLength.inc (m : EaMode) : EncodedLength.Statement (.inc m) := by
  cases m <;> first | exact fun _ => rfl | exact fun h => nomatch h

theorem EncodedLength.dec (m : EaMode) : EncodedLength.Statement (.dec m) := by
  cases m <;> first | exact fun _ => rfl | exact fun h => nomatch h

theorem EncodedLength.inx : EncodedLength.Statement .inx := fun _ => rfl

theorem EncodedLength.iny : EncodedLength.Statement .iny := fun _ => rfl

theorem EncodedLength.dex : EncodedLength.Statement .dex := fun _ => rfl

theorem EncodedLength.dey : EncodedLength.Statement .dey := fun _ => rfl

theorem EncodedLength.nop : EncodedLength.Statement .nop := fun _ => rfl

theorem EncodedLength.jam (op : Byte) : EncodedLength.Statement (.jam op) := by
  intro h
  exact length_of_opcode (op := op) (if_pos h)

theorem EncodedLength.slo (m : EaMode) : EncodedLength.Statement (.slo m) := by
  cases m <;> first | exact fun _ => rfl | exact fun h => nomatch h

theorem EncodedLength.rla (m : EaMode) : EncodedLength.Statement (.rla m) := by
  cases m <;> first | exact fun _ => rfl | exact fun h => nomatch h

theorem EncodedLength.sre (m : EaMode) : EncodedLength.Statement (.sre m) := by
  cases m <;> first | exact fun _ => rfl | exact fun h => nomatch h

theorem EncodedLength.rra (m : EaMode) : EncodedLength.Statement (.rra m) := by
  cases m <;> first | exact fun _ => rfl | exact fun h => nomatch h

theorem EncodedLength.anc (op : Byte) (b1 : Byte) : EncodedLength.Statement (.anc op b1) := by
  intro h
  exact length_of_opcode (op := op) (if_pos h)

theorem EncodedLength.alr (b1 : Byte) : EncodedLength.Statement (.alr b1) := fun _ => rfl

theorem EncodedLength.arr (b1 : Byte) : EncodedLength.Statement (.arr b1) := fun _ => rfl

theorem EncodedLength.nopUndoc (op : Byte) (o : NopOperand) : EncodedLength.Statement (.nopUndoc op o) := by
  intro h
  have hop : (Instr.nopUndoc op o).opcode = some op := if_pos h
  rw [length_of_opcode hop]
  rcases o with _ | m
  · rfl
  · cases m <;> rfl

theorem EncodedLength.unlisted (op : Byte) : EncodedLength.Statement (.unlisted op) := by
  intro h
  exact length_of_opcode (op := op) (if_pos h)

end Sys2Proof.Laws
end

