-- ==== Sys2Proof/Tests/Slice0.lean ====
section
/-! SUPPORT. The model's own tests: ill-formed terms that WellFormed refuses, words written out from the spec's
encodings, single steps with the results that spec/95_test_vectors.md section 2 gives (the vector is in the name),
and a witness for every statement that has hypotheses. -/

namespace Sys2Proof.Tests

open Sys2Proof.Machine Sys2Proof.Safety

/-! ### WellFormed refuses -/

theorem test_wf_refuses_lda_zpgY : (Instr.wf (.lda (.mem (.zpgY 0x10)))) = false := by decide

theorem test_wf_refuses_adc_zpgY : (Instr.wf (.adc (.mem (.zpgY 0x10)))) = false := by decide

theorem test_wf_refuses_sta_zpgY : (Instr.wf (.sta (.zpgY 0x10))) = false := by decide

theorem test_wf_refuses_slo_zpgY : (Instr.wf (.slo (.zpgY 0x10))) = false := by decide

theorem test_wf_refuses_ldx_absX : (Instr.wf (.ldx (.mem (.absX 0x0200)))) = false := by decide

theorem test_wf_refuses_ldy_zpgY : (Instr.wf (.ldy (.mem (.zpgY 0x10)))) = false := by decide

theorem test_wf_refuses_stx_zpgX : (Instr.wf (.stx (.zpgX 0x10))) = false := by decide

theorem test_wf_refuses_sty_absX : (Instr.wf (.sty (.absX 0x0200))) = false := by decide

theorem test_wf_refuses_asl_absY : (Instr.wf (.asl (.mem (.absY 0x0200)))) = false := by decide

theorem test_wf_refuses_inc_indY : (Instr.wf (.inc (.indY 0x10))) = false := by decide

theorem test_wf_refuses_bit_zpgX : (Instr.wf (.bit (.zpgX 0x10))) = false := by decide

theorem test_wf_refuses_cpx_zpgX : (Instr.wf (.cpx (.mem (.zpgX 0x10)))) = false := by decide

theorem test_wf_refuses_rra_absX : (Instr.wf (.rra (.absX 0x0200))) = false := by decide

theorem test_wf_refuses_jam_other_byte : (Instr.wf (.jam 0x92)) = false := by decide

theorem test_wf_refuses_anc_other_byte : (Instr.wf (.anc 0x8B 0x10)) = false := by decide

theorem test_wf_refuses_nop_of_other_shape : (Instr.wf (.nopUndoc 0x04 .impl)) = false := by decide

theorem test_wf_refuses_nop_without_a_row : (Instr.wf (.nopUndoc 0xDC (.mem (.absX 0x0200)))) = false := by decide

theorem test_wf_refuses_unlisted_that_has_a_row : (Instr.wf (.unlisted 0xEA)) = false := by decide

/-- The encoder gives no bytes for a term without a row. -/
theorem test_encode_ill_formed_is_empty : encode (.ldx (.mem (.absX 0x0200))) = [] := by decide

/-! ### Decoding, words bit by bit from the `encoding` field of spec/opcode_table.json (R71)

Operand bytes: `#`, zero page and `rel` 0x9C, addresses 0x1234 as low byte 0x34, high byte 0x12. -/

theorem test_decode_load_store :
    decode [0b10110001, 0b10011100] = .ok (.lda (.mem (.indY 0x9C)), []) ∧
    decode [0b10111110, 0b00110100, 0b00010010] = .ok (.ldx (.mem (.absY 0x1234)), []) ∧
    decode [0b10110100, 0b10011100] = .ok (.ldy (.mem (.zpgX 0x9C)), []) ∧
    decode [0b10011001, 0b00110100, 0b00010010] = .ok (.sta (.absY 0x1234), []) ∧
    decode [0b10010110, 0b10011100] = .ok (.stx (.zpgY 0x9C), []) ∧
    decode [0b10001100, 0b00110100, 0b00010010] = .ok (.sty (.abs 0x1234), []) :=
  ⟨rfl, rfl, rfl, rfl, rfl, rfl⟩

theorem test_decode_arithmetic :
    decode [0b01111001, 0b00110100, 0b00010010] = .ok (.adc (.mem (.absY 0x1234)), []) ∧
    decode [0b11100001, 0b10011100] = .ok (.sbc (.mem (.xInd 0x9C)), []) :=
  ⟨rfl, rfl⟩

theorem test_decode_logic :
    decode [0b00101001, 0b10011100] = .ok (.and (.imm 0x9C), []) ∧
    decode [0b00010101, 0b10011100] = .ok (.ora (.mem (.zpgX 0x9C)), []) ∧
    decode [0b01001101, 0b00110100, 0b00010010] = .ok (.eor (.mem (.abs 0x1234)), []) :=
  ⟨rfl, rfl, rfl⟩

theorem test_decode_shift :
    decode [0b00001010] = .ok (.asl .acc, []) ∧
    decode [0b01011110, 0b00110100, 0b00010010] = .ok (.lsr (.mem (.absX 0x1234)), []) ∧
    decode [0b00100110, 0b10011100] = .ok (.rol (.mem (.zpg 0x9C)), []) ∧
    decode [0b01110110, 0b10011100] = .ok (.ror (.mem (.zpgX 0x9C)), []) :=
  ⟨rfl, rfl, rfl, rfl⟩

theorem test_decode_branch :
    decode [0b00010000, 0b10011100] = .ok (.bpl 0x9C, []) ∧
    decode [0b00110000, 0b10011100] = .ok (.bmi 0x9C, []) ∧
    decode [0b01010000, 0b10011100] = .ok (.bvc 0x9C, []) ∧
    decode [0b01110000, 0b10011100] = .ok (.bvs 0x9C, []) ∧
    decode [0b10010000, 0b10011100] = .ok (.bcc 0x9C, []) ∧
    decode [0b10110000, 0b10011100] = .ok (.bcs 0x9C, []) ∧
    decode [0b11010000, 0b10011100] = .ok (.bne 0x9C, []) ∧
    decode [0b11110000, 0b10011100] = .ok (.beq 0x9C, []) :=
  ⟨rfl, rfl, rfl, rfl, rfl, rfl, rfl, rfl⟩

theorem test_decode_control :
    decode [0b00000000] = .ok (.brk, []) ∧
    decode [0b01000000] = .ok (.rti, []) ∧
    decode [0b00100000, 0b00110100, 0b00010010] = .ok (.jsr 0x1234, []) ∧
    decode [0b01100000] = .ok (.rts, []) ∧
    decode [0b01001100, 0b00110100, 0b00010010] = .ok (.jmp (.abs 0x1234), []) ∧
    decode [0b01101100, 0b00110100, 0b00010010] = .ok (.jmp (.ind 0x1234), []) :=
  ⟨rfl, rfl, rfl, rfl, rfl, rfl⟩

theorem test_decode_flag :
    decode [0b00011000] = .ok (.clc, []) ∧
    decode [0b00111000] = .ok (.sec, []) ∧
    decode [0b01011000] = .ok (.cli, []) ∧
    decode [0b01111000] = .ok (.sei, []) ∧
    decode [0b10111000] = .ok (.clv, []) ∧
    decode [0b11011000] = .ok (.cld, []) ∧
    decode [0b11111000] = .ok (.sed, []) :=
  ⟨rfl, rfl, rfl, rfl, rfl, rfl, rfl⟩

theorem test_decode_transfer :
    decode [0b10101010] = .ok (.tax, []) ∧
    decode [0b10001010] = .ok (.txa, []) ∧
    decode [0b10101000] = .ok (.tay, []) ∧
    decode [0b10011000] = .ok (.tya, []) ∧
    decode [0b10111010] = .ok (.tsx, []) ∧
    decode [0b10011010] = .ok (.txs, []) :=
  ⟨rfl, rfl, rfl, rfl, rfl, rfl⟩

theorem test_decode_stack :
    decode [0b01001000] = .ok (.pha, []) ∧
    decode [0b01101000] = .ok (.pla, []) ∧
    decode [0b00001000] = .ok (.php, []) ∧
    decode [0b00101000] = .ok (.plp, []) :=
  ⟨rfl, rfl, rfl, rfl⟩

theorem test_decode_compare :
    decode [0b00101100, 0b00110100, 0b00010010] = .ok (.bit (.abs 0x1234), []) ∧
    decode [0b11011101, 0b00110100, 0b00010010] = .ok (.cmp (.mem (.absX 0x1234)), []) ∧
    decode [0b11100000, 0b10011100] = .ok (.cpx (.imm 0x9C), []) ∧
    decode [0b11000100, 0b10011100] = .ok (.cpy (.mem (.zpg 0x9C)), []) :=
  ⟨rfl, rfl, rfl, rfl⟩

theorem test_decode_increment :
    decode [0b11101110, 0b00110100, 0b00010010] = .ok (.inc (.abs 0x1234), []) ∧
    decode [0b11010110, 0b10011100] = .ok (.dec (.zpgX 0x9C), []) ∧
    decode [0b11101000] = .ok (.inx, []) ∧
    decode [0b11001000] = .ok (.iny, []) ∧
    decode [0b11001010] = .ok (.dex, []) ∧
    decode [0b10001000] = .ok (.dey, []) ∧
    decode [0b11101010] = .ok (.nop, []) :=
  ⟨rfl, rfl, rfl, rfl, rfl, rfl, rfl⟩

theorem test_decode_undocumented :
    decode [0b01100010] = .ok (.jam 0x62, []) ∧
    decode [0b00011011, 0b00110100, 0b00010010] = .ok (.slo (.absY 0x1234), []) ∧
    decode [0b00110111, 0b10011100] = .ok (.rla (.zpgX 0x9C), []) ∧
    decode [0b01000011, 0b10011100] = .ok (.sre (.xInd 0x9C), []) ∧
    decode [0b01110011, 0b10011100] = .ok (.rra (.indY 0x9C), []) ∧
    decode [0b00001011, 0b10011100] = .ok (.anc 0x0B 0x9C, []) ∧
    decode [0b01001011, 0b10011100] = .ok (.alr 0x9C, []) ∧
    decode [0b01101011, 0b10011100] = .ok (.arr 0x9C, []) :=
  ⟨rfl, rfl, rfl, rfl, rfl, rfl, rfl, rfl⟩

theorem test_decode_undocumented_nop :
    decode [0b01011010] = .ok (.nopUndoc 0x5A .impl, []) ∧
    decode [0b01100100, 0b10011100] = .ok (.nopUndoc 0x64 (.mem (.zpg 0x9C)), []) ∧
    decode [0b01110100, 0b10011100] = .ok (.nopUndoc 0x74 (.mem (.zpgX 0x9C)), []) ∧
    decode [0b00001100, 0b00110100, 0b00010010] = .ok (.nopUndoc 0x0C (.mem (.abs 0x1234)), []) ∧
    decode [0b00111100, 0b00110100, 0b00010010] = .ok (.nopUndoc 0x3C (.mem (.absX 0x1234)), []) :=
  ⟨rfl, rfl, rfl, rfl, rfl⟩

theorem test_decode_unlisted :
    decode [0b01111111] = .ok (.unlisted 0x7F, []) :=
  rfl

/-- Too few bytes are refused by name. -/
theorem test_decode_truncated : decode [0xAD, 0x34] = .error (.truncated 0xAD) ∧ decode [] = .error .noOpcode :=
  ⟨rfl, rfl⟩

/-- The numbering of spec/opcode_table.json: the first byte in bits 7 to 0. -/
theorem test_decodeTableWord : decodeTableWord 24 0x1234AD = some (.lda (.mem (.abs 0x1234))) := rfl

/-- An instruction stored by `withFetchWord` is what the next step from reset runs. -/
theorem test_withFetchWord_runs :
    (match step (State.reset.withFetchWord 16 0x80A9) with | .next t => t.a == 0x80 && t.pc == 0x0002 | _ => false)
      = true := by decide

/-! ### Single steps -/

/-- The base state of spec/95_test_vectors.md section 2, with ADMIT_UNDOCUMENTED true. -/
def base : State where
  a := 0x00
  x := 0x00
  y := 0x00
  sp := 0xFF
  pc := 0x1000
  p := { n := false, v := false, d := false, i := false, z := false, c := false }
  jammed := false
  admitUndocumented := true
  bus := { regions := [], mem := [], events := [] }

/-- Puts bytes in memory, then the code at PC. -/
def placed (s : State) (bytes : List (Word × Byte)) (code : List Byte) : State :=
  let code := code.zipIdx.map fun c => (s.pc + BitVec.ofNat 16 c.2, c.1)
  { s with bus := (bytes ++ code).foldl (fun b c => b.load (busAddr c.1) c.2) s.bus }

/-- The base state on a platform that has RAM in page zero and in page one, a device at 0x0280 to 0x029F, and ROM from
0x1000 on. -/
def board : State :=
  let ram : Region := { first := 0x0000, last := 0x01FF, kind := .ram }
  let device : Region := { first := 0x0280, last := 0x029F, kind := .device }
  let rom : Region := { first := 0x1000, last := 0x1FFF, kind := .rom }
  { base with bus := { regions := [ram, device, rom], mem := [], events := [] } }

/-- The flags as the string `NVDIZC`, N the highest of six bits. -/
def nvdizc (w : BitVec 6) : Flags where
  n := w.getLsbD 5
  v := w.getLsbD 4
  d := w.getLsbD 3
  i := w.getLsbD 2
  z := w.getLsbD 1
  c := w.getLsbD 0

/-- One step answers a next state that `q` accepts. -/
def gives (s : State) (q : State → Bool) : Bool :=
  match step s with
  | .next t => q t
  | _ => false

/-- One step refuses with the reason `r`. -/
def refuses (s : State) (r : Refusal) : Bool :=
  match step s with
  | .refused r' => r == r'
  | _ => false

theorem test_lda_V8 : gives
    (placed { base with y := 0x02 }
      [(0x0001, 0x66)] [0xB9, 0xFF, 0xFF])
    (fun t => t.a == 0x66 && t.pc == 0x1003 && t.p == nvdizc 0b000000) = true := by decide

theorem test_lda_V9 : gives
    (placed { base with x := 0x01 }
      [(0x0000, 0x03), (0x00FF, 0x00), (0x0300, 0x5A)] [0xA1, 0xFE])
    (fun t => t.a == 0x5A && t.pc == 0x1002 && t.p == nvdizc 0b000000) = true := by decide

theorem test_ldx_V14 : gives
    (placed { base with x := 0x77, y := 0x04 }
      [(0x0204, 0x00), (0x0277, 0xEE)] [0xBE, 0x00, 0x02])
    (fun t => t.x == 0x00 && t.pc == 0x1003 && t.p == nvdizc 0b000010) = true := by decide

theorem test_ldy_V16 : gives
    (placed { base with x := 0x80 }
      [(0x0300, 0x80)] [0xBC, 0x80, 0x02])
    (fun t => t.y == 0x80 && t.pc == 0x1003 && t.p == nvdizc 0b100000) = true := by decide

theorem test_sta_V18 : gives
    (placed { base with a := 0x55, x := 0x01 }
      [] [0x9D, 0xFF, 0x02])
    (fun t => t.pc == 0x1003 && t.p == nvdizc 0b000000 && t.memRead 0x0300 == 0x55) = true := by decide

theorem test_sta_V24 : gives
    (placed { base with a := 0xDE }
      [] [0x8D, 0x80, 0x20])
    (fun t => t.pc == 0x1003 && t.p == nvdizc 0b000000 && t.memRead 0x0080 == 0xDE) = true := by decide

theorem test_stx_V21 : gives
    (placed { base with x := 0xFF, y := 0x02 }
      [] [0x96, 0xFF])
    (fun t => t.pc == 0x1002 && t.p == nvdizc 0b000000 && t.memRead 0x0001 == 0xFF) = true := by decide

theorem test_sty_V23 : gives
    (placed { base with x := 0x05, y := 0x9A }
      [] [0x94, 0x10])
    (fun t => t.pc == 0x1002 && t.p == nvdizc 0b000000 && t.memRead 0x0015 == 0x9A) = true := by decide

theorem test_adc_V26 : gives
    (placed { base with a := 0x50 }
      [] [0x69, 0x50])
    (fun t => t.a == 0xA0 && t.pc == 0x1002 && t.p == nvdizc 0b110000) = true := by decide

theorem test_adc_V40 : gives
    (placed { base with a := 0x58, p := nvdizc 0b001001 }
      [] [0x69, 0x46])
    (fun t => t.a == 0x05 && t.pc == 0x1002 && t.p == nvdizc 0b111001) = true := by decide

theorem test_sbc_V37 : gives
    (placed { base with a := 0x05, p := nvdizc 0b000000 }
      [] [0xE9, 0x03])
    (fun t => t.a == 0x01 && t.pc == 0x1002 && t.p == nvdizc 0b000001) = true := by decide

theorem test_sbc_V46 : gives
    (placed { base with a := 0x12, p := nvdizc 0b001001 }
      [] [0xE9, 0x21])
    (fun t => t.a == 0x91 && t.pc == 0x1002 && t.p == nvdizc 0b101000) = true := by decide

theorem test_and_V55 : gives
    (placed { base with a := 0xFF, y := 0x01 }
      [(0x0020, 0xFF), (0x0021, 0x02), (0x0300, 0x81)] [0x31, 0x20])
    (fun t => t.a == 0x81 && t.pc == 0x1002 && t.p == nvdizc 0b100000) = true := by decide

theorem test_ora_V52 : gives
    (placed { base with a := 0x0F }
      [] [0x09, 0x80])
    (fun t => t.a == 0x8F && t.pc == 0x1002 && t.p == nvdizc 0b100000) = true := by decide

theorem test_eor_V53 : gives
    (placed { base with a := 0xAA }
      [] [0x49, 0xAA])
    (fun t => t.a == 0x00 && t.pc == 0x1002 && t.p == nvdizc 0b000010) = true := by decide

theorem test_asl_V57 : gives
    (placed { base with a := 0x00 }
      [(0x0010, 0x41)] [0x06, 0x10])
    (fun t => t.pc == 0x1002 && t.p == nvdizc 0b100000 && t.memRead 0x0010 == 0x82) = true := by decide

theorem test_lsr_V60 : gives
    (placed { base with a := 0x01, p := nvdizc 0b100000 }
      [] [0x4A])
    (fun t => t.a == 0x00 && t.pc == 0x1001 && t.p == nvdizc 0b000011) = true := by decide

theorem test_rol_V64 : gives
    (placed { base with x := 0x01, p := nvdizc 0b000001 }
      [(0x0011, 0x40)] [0x36, 0x10])
    (fun t => t.pc == 0x1002 && t.p == nvdizc 0b100000 && t.memRead 0x0011 == 0x81) = true := by decide

theorem test_ror_V65 : gives
    (placed { base with a := 0x01, p := nvdizc 0b000001 }
      [] [0x6A])
    (fun t => t.a == 0x80 && t.pc == 0x1001 && t.p == nvdizc 0b100001) = true := by decide

theorem test_bpl_V68 : gives
    (placed { base with p := nvdizc 0b000000 }
      [] [0x10, 0x10])
    (fun t => t.pc == 0x1012 && t.p == nvdizc 0b000000) = true := by decide

theorem test_bpl_V69 : gives
    (placed { base with p := nvdizc 0b100000 }
      [] [0x10, 0x10])
    (fun t => t.pc == 0x1002 && t.p == nvdizc 0b100000) = true := by decide

theorem test_bmi_V70 : gives
    (placed { base with p := nvdizc 0b100000 }
      [] [0x30, 0x10])
    (fun t => t.pc == 0x1012 && t.p == nvdizc 0b100000) = true := by decide

theorem test_bvc_V73 : gives
    (placed { base with p := nvdizc 0b010000 }
      [] [0x50, 0x10])
    (fun t => t.pc == 0x1002 && t.p == nvdizc 0b010000) = true := by decide

theorem test_bvs_V74 : gives
    (placed { base with p := nvdizc 0b010000 }
      [] [0x70, 0x10])
    (fun t => t.pc == 0x1012 && t.p == nvdizc 0b010000) = true := by decide

theorem test_bcc_V76 : gives
    (placed { base with p := nvdizc 0b000000 }
      [] [0x90, 0x10])
    (fun t => t.pc == 0x1012 && t.p == nvdizc 0b000000) = true := by decide

theorem test_bcs_V79 : gives
    (placed { base with p := nvdizc 0b000000 }
      [] [0xB0, 0x10])
    (fun t => t.pc == 0x1002 && t.p == nvdizc 0b000000) = true := by decide

theorem test_bne_V84 : gives
    (placed { base with p := nvdizc 0b000000 }
      [] [0xD0, 0xFC])
    (fun t => t.pc == 0x0FFE && t.p == nvdizc 0b000000) = true := by decide

theorem test_beq_V89 : gives
    (placed { base with pc := 0xFFF0, p := nvdizc 0b000010 }
      [] [0xF0, 0x20])
    (fun t => t.pc == 0x0012 && t.p == nvdizc 0b000010) = true := by decide

theorem test_brk_V99 : gives
    (placed { base with p := nvdizc 0b101100 }
      [(0x1FFE, 0x00), (0x1FFF, 0x18)] [0x00])
    (fun t => t.sp == 0xFC && t.pc == 0x1800 && t.p == nvdizc 0b101100 && t.memRead 0x01FD == 0xBC && t.memRead 0x01FE == 0x02 && t.memRead 0x01FF == 0x10) = true := by decide

theorem test_rti_V101 : gives
    (placed { base with sp := 0xFC, pc := 0x1800 }
      [(0x01FD, 0xCF), (0x01FE, 0x00), (0x01FF, 0x10)] [0x40])
    (fun t => t.sp == 0xFF && t.pc == 0x1000 && t.p == nvdizc 0b111111) = true := by decide

theorem test_jsr_V95 : gives
    (placed { base with sp := 0x00 }
      [] [0x20, 0x34, 0x12])
    (fun t => t.sp == 0xFE && t.pc == 0x1234 && t.p == nvdizc 0b000000 && t.memRead 0x0100 == 0x10 && t.memRead 0x01FF == 0x02) = true := by decide

theorem test_rts_V97 : gives
    (placed { base with sp := 0xFD }
      [(0x01FE, 0xFF), (0x01FF, 0xFF)] [0x60])
    (fun t => t.sp == 0xFF && t.pc == 0x0000 && t.p == nvdizc 0b000000) = true := by decide

theorem test_jmp_V93 : gives
    (placed base
      [(0x0200, 0x12), (0x02FF, 0x34), (0x0300, 0x56)] [0x6C, 0xFF, 0x02])
    (fun t => t.pc == 0x1234 && t.p == nvdizc 0b000000) = true := by decide

theorem test_clc_V109 : gives
    (placed { base with p := nvdizc 0b111111 }
      [] [0x18])
    (fun t => t.pc == 0x1001 && t.p == nvdizc 0b111110) = true := by decide

theorem test_sec_V103 : gives
    (placed base
      [] [0x38])
    (fun t => t.pc == 0x1001 && t.p == nvdizc 0b000001) = true := by decide

theorem test_cli_V104 : gives
    (placed { base with p := nvdizc 0b000100 }
      [] [0x58])
    (fun t => t.pc == 0x1001 && t.p == nvdizc 0b000000) = true := by decide

theorem test_sei_V105 : gives
    (placed base
      [] [0x78])
    (fun t => t.pc == 0x1001 && t.p == nvdizc 0b000100) = true := by decide

theorem test_clv_V106 : gives
    (placed { base with p := nvdizc 0b010000 }
      [] [0xB8])
    (fun t => t.pc == 0x1001 && t.p == nvdizc 0b000000) = true := by decide

theorem test_cld_V107 : gives
    (placed { base with p := nvdizc 0b001000 }
      [] [0xD8])
    (fun t => t.pc == 0x1001 && t.p == nvdizc 0b000000) = true := by decide

theorem test_sed_V108 : gives
    (placed base
      [] [0xF8])
    (fun t => t.pc == 0x1001 && t.p == nvdizc 0b001000) = true := by decide

theorem test_tax_V110 : gives
    (placed { base with a := 0x00, x := 0x55 }
      [] [0xAA])
    (fun t => t.x == 0x00 && t.pc == 0x1001 && t.p == nvdizc 0b000010) = true := by decide

theorem test_txa_V111 : gives
    (placed { base with x := 0x90 }
      [] [0x8A])
    (fun t => t.a == 0x90 && t.pc == 0x1001 && t.p == nvdizc 0b100000) = true := by decide

theorem test_tay_V112 : gives
    (placed { base with a := 0x7F }
      [] [0xA8])
    (fun t => t.y == 0x7F && t.pc == 0x1001 && t.p == nvdizc 0b000000) = true := by decide

theorem test_tya_V113 : gives
    (placed { base with y := 0xFF }
      [] [0x98])
    (fun t => t.a == 0xFF && t.pc == 0x1001 && t.p == nvdizc 0b100000) = true := by decide

theorem test_tsx_V114 : gives
    (placed { base with sp := 0xFD }
      [] [0xBA])
    (fun t => t.x == 0xFD && t.pc == 0x1001 && t.p == nvdizc 0b100000) = true := by decide

theorem test_txs_V115 : gives
    (placed { base with x := 0x00, p := nvdizc 0b100000 }
      [] [0x9A])
    (fun t => t.sp == 0x00 && t.pc == 0x1001 && t.p == nvdizc 0b100000) = true := by decide

theorem test_pha_V118 : gives
    (placed { base with a := 0x42, sp := 0x00 }
      [] [0x48])
    (fun t => t.sp == 0xFF && t.pc == 0x1001 && t.p == nvdizc 0b000000 && t.memRead 0x0100 == 0x42) = true := by decide

theorem test_pla_V120 : gives
    (placed { base with sp := 0xFF }
      [(0x0100, 0x80)] [0x68])
    (fun t => t.a == 0x80 && t.sp == 0x00 && t.pc == 0x1001 && t.p == nvdizc 0b100000) = true := by decide

theorem test_php_V121 : gives
    (placed { base with p := nvdizc 0b100101 }
      [] [0x08])
    (fun t => t.sp == 0xFE && t.pc == 0x1001 && t.p == nvdizc 0b100101 && t.memRead 0x01FF == 0xB5) = true := by decide

theorem test_plp_V124 : gives
    (placed { base with sp := 0xFE, p := nvdizc 0b111111 }
      [(0x01FF, 0x30)] [0x28])
    (fun t => t.sp == 0xFF && t.pc == 0x1001 && t.p == nvdizc 0b000000) = true := by decide

theorem test_bit_V125 : gives
    (placed { base with a := 0x01 }
      [(0x0010, 0xC0)] [0x24, 0x10])
    (fun t => t.pc == 0x1002 && t.p == nvdizc 0b110010) = true := by decide

theorem test_cmp_V129 : gives
    (placed { base with a := 0x40, p := nvdizc 0b010000 }
      [] [0xC9, 0x3F])
    (fun t => t.pc == 0x1002 && t.p == nvdizc 0b010001) = true := by decide

theorem test_cmp_V131 : gives
    (placed { base with a := 0x10, p := nvdizc 0b001000 }
      [] [0xC9, 0x10])
    (fun t => t.pc == 0x1002 && t.p == nvdizc 0b001011) = true := by decide

theorem test_cpx_V134 : gives
    (placed { base with x := 0x00 }
      [(0x0010, 0xFF)] [0xE4, 0x10])
    (fun t => t.pc == 0x1002 && t.p == nvdizc 0b000000) = true := by decide

theorem test_cpy_V135 : gives
    (placed { base with y := 0x00 }
      [] [0xC0, 0x01])
    (fun t => t.pc == 0x1002 && t.p == nvdizc 0b100000) = true := by decide

theorem test_inc_V136 : gives
    (placed base
      [(0x0010, 0xFF)] [0xE6, 0x10])
    (fun t => t.pc == 0x1002 && t.p == nvdizc 0b000010 && t.memRead 0x0010 == 0x00) = true := by decide

theorem test_dec_V139 : gives
    (placed base
      [(0x0010, 0x00)] [0xC6, 0x10])
    (fun t => t.pc == 0x1002 && t.p == nvdizc 0b100000 && t.memRead 0x0010 == 0xFF) = true := by decide

theorem test_inx_V141 : gives
    (placed { base with x := 0xFF, p := nvdizc 0b000000 }
      [] [0xE8])
    (fun t => t.x == 0x00 && t.pc == 0x1001 && t.p == nvdizc 0b000010) = true := by decide

theorem test_iny_V142 : gives
    (placed { base with y := 0x7F }
      [] [0xC8])
    (fun t => t.y == 0x80 && t.pc == 0x1001 && t.p == nvdizc 0b100000) = true := by decide

theorem test_dex_V143 : gives
    (placed { base with x := 0x00 }
      [] [0xCA])
    (fun t => t.x == 0xFF && t.pc == 0x1001 && t.p == nvdizc 0b100000) = true := by decide

theorem test_dey_V144 : gives
    (placed { base with y := 0x01 }
      [] [0x88])
    (fun t => t.y == 0x00 && t.pc == 0x1001 && t.p == nvdizc 0b000010) = true := by decide

theorem test_nop_V145 : gives
    (placed { base with p := nvdizc 0b100001 }
      [] [0xEA])
    (fun t => t.pc == 0x1001 && t.p == nvdizc 0b100001) = true := by decide

theorem test_jam_V166 : gives
    (placed base
      [] [0x02])
    (fun t => t.pc == 0x1000 && t.jammed && t.p == nvdizc 0b000000) = true := by decide

theorem test_slo_V148 : gives
    (placed { base with a := 0x00, y := 0x01 }
      [(0x0300, 0x40)] [0x1B, 0xFF, 0x02])
    (fun t => t.a == 0x80 && t.pc == 0x1003 && t.p == nvdizc 0b100000 && t.memRead 0x0300 == 0x80) = true := by decide

theorem test_rla_V150 : gives
    (placed { base with a := 0x0F, x := 0x02, p := nvdizc 0b000000 }
      [(0x0022, 0x00), (0x0023, 0x03), (0x0300, 0x85)] [0x23, 0x20])
    (fun t => t.a == 0x0A && t.pc == 0x1002 && t.p == nvdizc 0b000001 && t.memRead 0x0300 == 0x0A) = true := by decide

theorem test_sre_V152 : gives
    (placed { base with a := 0xFF, y := 0x01 }
      [(0x0020, 0x00), (0x0021, 0x03), (0x0301, 0xFE)] [0x53, 0x20])
    (fun t => t.a == 0x80 && t.pc == 0x1002 && t.p == nvdizc 0b100000 && t.memRead 0x0301 == 0x7F) = true := by decide

theorem test_rra_V154 : gives
    (placed { base with a := 0x80, p := nvdizc 0b000001 }
      [(0x0200, 0x00)] [0x6F, 0x00, 0x02])
    (fun t => t.a == 0x00 && t.pc == 0x1003 && t.p == nvdizc 0b010011 && t.memRead 0x0200 == 0x80) = true := by decide

theorem test_rra_V155 : gives
    (placed { base with a := 0x19, p := nvdizc 0b001000 }
      [(0x0010, 0x03)] [0x67, 0x10])
    (fun t => t.a == 0x21 && t.pc == 0x1002 && t.p == nvdizc 0b001000 && t.memRead 0x0010 == 0x01) = true := by decide

theorem test_anc_V157 : gives
    (placed { base with a := 0xF0, p := nvdizc 0b000001 }
      [] [0x2B, 0x0F])
    (fun t => t.a == 0x00 && t.pc == 0x1002 && t.p == nvdizc 0b000010) = true := by decide

theorem test_alr_V158 : gives
    (placed { base with a := 0xFF }
      [] [0x4B, 0x03])
    (fun t => t.a == 0x01 && t.pc == 0x1002 && t.p == nvdizc 0b000001) = true := by decide

theorem test_arr_V160 : gives
    (placed { base with a := 0x80, p := nvdizc 0b000000 }
      [] [0x6B, 0x80])
    (fun t => t.a == 0x40 && t.pc == 0x1002 && t.p == nvdizc 0b010001) = true := by decide

theorem test_nopUndoc_V164 : gives
    (placed { base with x := 0x01 }
      [] [0x1C, 0xFF, 0x02])
    (fun t => t.pc == 0x1003 && t.p == nvdizc 0b000000) = true := by decide

theorem test_arr_V161 : refuses
    (placed { base with a := 0xFF, p := nvdizc 0b001001 }
      [] [0x6B, 0xFF])
    .arrDecimal = true := by decide

theorem test_slo_V146 : refuses
    (placed { base with a := 0x01, admitUndocumented := false }
      [(0x0010, 0x81)] [0x07, 0x10])
    .undocumentedNotAdmitted = true := by decide

theorem test_unlisted_V168 : refuses
    (placed { base with a := 0x05, p := nvdizc 0b000001 }
      [] [0xEB, 0x01])
    (.unlistedOpcode 0xEB) = true := by decide

/-- R122: a JSR whose second push lands on its own third byte jumps to the byte just pushed: code at 0x01FD, S = 0x00,
so 0x01 goes to 0x0100 and 0xFF to 0x01FF, which held 0x12. -/
theorem test_jsr_pushes_onto_itself : gives
    (placed { base with pc := 0x01FD, sp := 0x00 } [] [0x20, 0x34, 0x12])
    (fun t => t.pc == 0xFF34 && t.memRead 0x01FF == 0xFF) = true := by decide

/-- R3, R31: a store to ROM goes to the bus and changes no byte; 0x9F00 is an alias of 0x1F00. -/
theorem test_sta_to_rom : gives
    (placed { board with a := 0x55 } [(0x1F00, 0xC3)] [0x8D, 0x00, 0x9F])
    (fun t => t.pc == 0x1003 && t.memRead 0x1F00 == 0xC3 && t.bus.events == []) = true := by decide

/-- R35, R39: a read-modify-write of a device is one read, then one write, of what the device answered, plus one. -/
theorem test_inc_of_a_device :
    ∃ t, step (placed board [] [0xEE, 0x84, 0x02]) = .next t ∧
      t.bus.events = [.write 0x0284 (Config.deviceByte [] 0x0284 + 1), .read 0x0284] := ⟨_, rfl, rfl⟩

/-- R188, R39: the undocumented NOP reads its operand, here a device, and does nothing else. -/
theorem test_nopUndoc_reads_a_device : gives
    (placed { board with x := 0x04 } [] [0x1C, 0x80, 0x02])
    (fun t => t.pc == 0x1003 && t.a == 0x00 && t.bus.events == [.read 0x0284]) = true := by decide

/-- V169: a jammed CPU has no step, and reset ends that. -/
theorem test_reset_V169 :
    let s := placed { base with jammed := true } [(0x1FFC, 0x00), (0x1FFD, 0xF0)] []
    (match step s with | .fault .jammed => true | _ => false) = true ∧
      (s.resetStep ResetDraw.sample).pc = 0xF000 ∧ (s.resetStep ResetDraw.sample).jammed = false ∧
      (s.resetStep ResetDraw.sample).p.i = true := by decide

/-! ### Witnesses: states and operands that meet the hypotheses of the statements -/

theorem gives_next {s : State} {q : State → Bool} (h : gives s q = true) :
    ∃ t, step s = .next t ∧ q t = true := by
  unfold gives at h
  split at h
  · exact ⟨_, by assumption, h⟩
  · cases h

/-- On the default instance every address is RAM. -/
theorem base_is_ram (addr : Word) : ramAt base addr ∧ ¬ deviceAt base addr := 
  ⟨rfl, fun h => nomatch (show Location.ram = .device from h)⟩

/-- Its stack is RAM. -/
theorem base_stackIsRam : stackIsRam base := fun _ => (base_is_ram _).1

/-- Obligations.DecodeOfEncode, at the first and the last operand form. -/
theorem witness_DecodeOfEncode :
    (Instr.lda (.imm 0x00)).wf = true ∧ (Instr.sta (.indY 0xFF)).wf = true ∧
      (Instr.jsr 0xFFFF).wf = true ∧ (Instr.nopUndoc 0x5C (.mem (.absX 0xFFFF))).wf = true := by decide

/-- A state with canonical memory that is not empty, and an instruction at PC that stores. -/
def storing : State := placed { base with a := 0x55 } [] [0x85, 0x10]

/-- Obligations.EveryStepKeepsTheInvariant. -/
theorem witness_EveryStepKeepsTheInvariant : inv storing ∧ ∃ t, step storing = .next t := by
  obtain ⟨t, h, _⟩ := gives_next (s := storing) (q := fun _ => true) (by decide)
  exact ⟨by unfold inv; decide, t, h⟩

/-- Obligations.EveryRunKeepsTheInvariant, over an instruction and a reset. -/
theorem witness_EveryRunKeepsTheInvariant :
    inv storing ∧ ∃ t, runEvents [.instruction, .reset ResetDraw.sample] storing = .next t := by
  obtain ⟨t, h, _⟩ := gives_next (s := storing) (q := fun _ => true) (by decide)
  refine ⟨by unfold inv; decide, t.resetStep ResetDraw.sample, ?_⟩
  simp only [runEvents, agentStep, h]

/-- Obligations.CanonicalMemoriesReadingAlikeAreEqual, at the first and last bus address. -/
theorem witness_CanonicalMemoriesReadingAlikeAreEqual :
    let m : Memory := [(0, 0x01), (8191, 0xFF)]
    m.wf = true ∧ ∀ a, a < busSize → m.read a = m.read a := ⟨by decide, fun _ _ => rfl⟩

/-- Obligations.ReadGivesTheLatestWrite, one address, or one bus, for each clause: the first and last bytes of the RAM, the
device and the ROM of `board`; a write that is read back through an alias; a read elsewhere; the default instance. -/
theorem witness_ReadGivesTheLatestWrite :
    (ramAt board 0x0000 ∧ ramAt board 0x01FF ∧ busAddr 0x01FF = busAddr 0x21FF) ∧
    (¬ deviceAt board 0x027F ∧ busAddr 0x01FF ≠ busAddr 0x027F) ∧
    (¬ deviceAt board 0x1000 ∧ ¬ ramAt board 0x1000 ∧ ¬ ramAt board 0x0280) ∧
    base.bus.regions = [] ∧
    board.bus.locationAt 0x1000 = .rom ∧ board.bus.locationAt 0x1FFF = .rom ∧
    board.bus.locationAt 0x0280 = .device ∧ board.bus.locationAt 0x029F = .device := by
  unfold ramAt deviceAt; decide

/-- Obligations.StoresWriteOneByte and every other statement with `storesOnly`, `storesAt` or `updatesAt`, each clause at
an address stored to: RAM, and what is not RAM. -/
theorem witness_storesOnly :
    (ramAt board (board.ea (.zpg 0x10)) ∧ ¬ deviceAt board 0x0011 ∧
      busAddr 0x0011 ≠ busAddr (board.ea (.zpg 0x10))) ∧
    (¬ ramAt board (board.ea (.abs 0x1F00)) ∧ ¬ deviceAt board 0x1F00) := by
  unfold ramAt deviceAt; decide

/-- Obligations.BreakTakesTheTrap and Obligations.InterruptEntry, the clauses of `trapEntered`, and those of
Obligations.JumpToSubroutine: the bytes pushed, another byte of memory, the vector, the return address. -/
theorem witness_trapEntered :
    stackIsRam base ∧
    ramAt base (stackAddr base.sp) ∧ ramAt base (stackAddr (base.sp - 1)) ∧ ramAt base (stackAddr (base.sp - 2)) ∧
    (¬ deviceAt base 0x0200 ∧ busAddr 0x0200 ≠ busAddr (stackAddr base.sp) ∧
      busAddr 0x0200 ≠ busAddr (stackAddr (base.sp - 1)) ∧ busAddr 0x0200 ≠ busAddr (stackAddr (base.sp - 2))) ∧
    ¬ deviceAt base 0xFFFE ∧ ¬ deviceAt base 0xFFFF ∧ ¬ deviceAt base (base.pc + 2) :=
  ⟨base_stackIsRam, rfl, rfl, rfl, by unfold deviceAt; decide, (base_is_ram _).2, (base_is_ram _).2, (base_is_ram _).2⟩

/-- Obligations.EightAliasesAreOneLocation: both ends of k. -/
theorem witness_EightAliasesAreOneLocation : 0 < 8 ∧ 7 < 8 := by decide

/-- Obligations.PushAndPullWrapInPageOne: the two wrapping clauses. -/
theorem witness_PushAndPullWrapInPageOne :
    ({ base with sp := 0x00 } : State).sp = 0x00 ∧ base.sp = 0xFF := ⟨rfl, rfl⟩

/-- Obligations.StackIsLastInFirstOut: no byte, and a full page; its other premise is that of
Obligations.PullStatusUndoesPushStatus, Obligations.ReturnAfterBreakResumesPastTheSignature and
Obligations.ReturnFromSubroutineResumesAfterTheCall too. -/
theorem witness_StackIsLastInFirstOut :
    stackIsRam base ∧ ([] : List Byte).length ≤ 256 ∧ (List.replicate 256 (0x5A : Byte)).length ≤ 256 :=
  ⟨base_stackIsRam, Nat.zero_le _, by rw [List.length_replicate]⟩

/-- Obligations.DecimalAddition and Obligations.DecimalSubtraction: both ends of the digits. -/
theorem witness_Decimal : bcdValid 0x00 ∧ bcdValid 0x09 ∧ bcdValid 0x90 ∧ bcdValid 0x99 := by
  unfold bcdValid; decide

/-- Obligations.JamSetsJammedOnly: the first and the last byte. -/
theorem witness_JamSetsJammedOnly :
    (0x02 : Byte) ∈ ([0x02, 0x12, 0x22, 0x32, 0x42, 0x52, 0x62, 0x72] : List Byte) ∧
    (0x72 : Byte) ∈ ([0x02, 0x12, 0x22, 0x32, 0x42, 0x52, 0x62, 0x72] : List Byte) := by decide

/-- Obligations.ImmediateCombinations: ARR in both cases of D. -/
theorem witness_ImmediateCombinations :
    base.p.d = false ∧ ({ base with p := nvdizc 0b001000 } : State).p.d = true := by decide

/-- Obligations.UnlistedBytesAreRefused: the first and the last byte, with and without ADMIT_UNDOCUMENTED. -/
theorem witness_UnlistedBytesAreRefused :
    (0x7A : Byte) ∈ unlistedOpcodes ∧ (0xFF : Byte) ∈ unlistedOpcodes ∧
    (placed base [] [0x7A]).jammed = false ∧ (placed base [] [0x7A]).memRead 0x1000 = 0x7A ∧
    (placed { base with admitUndocumented := false } [] [0xFF]).memRead 0x1000 = 0xFF := by decide

/-- Obligations.StepRunsTheDecodedInstruction: a documented instruction where tier 2 is not admitted, an
undocumented one where it is, and JSR; the code is in ROM, so no device is read. -/
theorem witness_StepRunsTheDecodedInstruction :
    let s := placed { board with admitUndocumented := false } [] [0xAD, 0x34, 0x12]
    let u := placed board [] [0x07, 0x10]
    let v := placed board [] [0x20, 0x34, 0x12]
    s.jammed = false ∧ ((Instr.lda (.mem (.abs 0x1234))).tier = 2 → s.admitUndocumented = true) ∧
    decode s.bytesAtPc = .ok (.lda (.mem (.abs 0x1234)), []) ∧
    u.jammed = false ∧ ((Instr.slo (.zpg 0x10)).tier = 2 → u.admitUndocumented = true) ∧
    decode u.bytesAtPc = .ok (.slo (.zpg 0x10), [0x00]) ∧
    decode v.bytesAtPc = .ok (.jsr 0x1234, []) ∧
    ¬ deviceAt s s.pc ∧ ¬ deviceAt s (s.pc + 1) ∧ ¬ deviceAt s (s.pc + 2) :=
  ⟨rfl, fun _ => by contradiction, rfl, rfl, fun _ => rfl, rfl, rfl, by unfold deviceAt; decide⟩

/-- Obligations.StepRunsTheEncodedInstruction: three bytes that straddle the wrap of PC. -/
theorem witness_StepRunsTheEncodedInstruction :
    let s := placed { base with pc := 0xFFFF } [] [0xBE, 0x34, 0x12]
    let i := Instr.ldx (.mem (.absY 0x1234))
    s.jammed = false ∧ i.wf = true ∧ i.tier = 1 ∧
    ∀ k, k < (encode i).length → ¬ deviceAt s (s.pc + BitVec.ofNat 16 k) ∧
      s.memRead (s.pc + BitVec.ofNat 16 k) = (encode i).getD k 0 := by
  unfold deviceAt; decide

/-- Obligations.FlagsChangeAsTabled: an instruction of each mark, one with copied bits, and one of no line. -/
theorem witness_FlagsChangeAsTabled :
    (∃ t, exec (.lsr .acc) base = .next t) ∧ (∃ t, exec .brk base = .next t) ∧
    (∃ t, exec (.adc (.imm 0x01)) base = .next t) ∧ (∃ t, exec (.bit (.zpg 0x10)) base = .next t) ∧
    (∃ t, exec .nop base = .next t) :=
  ⟨⟨_, rfl⟩, ⟨_, rfl⟩, ⟨_, rfl⟩, ⟨_, rfl⟩, ⟨_, rfl⟩⟩

/-- Obligations.OnlyListedInstructionsWrite: an instruction for each clause. -/
theorem witness_OnlyListedInstructionsWrite :
    (∃ t, exec (.sta (.zpg 0x10)) base = .next t) ∧ writesA (.sta (.zpg 0x10)) = false ∧
    writesX (.sta (.zpg 0x10)) = false ∧ writesY (.sta (.zpg 0x10)) = false ∧ writesS (.sta (.zpg 0x10)) = false ∧
    (∃ t, exec (.lda (.imm 0x10)) base = .next t) ∧ writesMemory (.lda (.imm 0x10)) = false ∧
    (∃ t, exec (.jam 0x02) base = .next t) ∧ (∃ op, Instr.jam 0x02 = .jam op) ∧
    (∀ op, Instr.lda (.imm 0x10) ≠ .jam op) :=
  ⟨⟨_, rfl⟩, rfl, rfl, rfl, rfl, ⟨_, rfl⟩, rfl, ⟨_, rfl⟩, ⟨0x02, rfl⟩, by simp⟩

/-- Obligations.PcMovesPastTheInstruction, and the premise of the first clause of
Obligations.AccessesReplayTheInstruction; that of its second is in `witness_EveryStepKeepsTheInvariant`. -/
theorem witness_PcMovesPastTheInstruction :
    (∃ t, exec (.inc (.absX 0x02FF)) base = .next t) ∧ movesPc (.inc (.absX 0x02FF)) = false := ⟨⟨_, rfl⟩, rfl⟩

/-- Obligations.InterruptEntry: lines and flags for each of its three cases. -/
theorem witness_InterruptEntry :
    let both : InterruptLines := { nmiLatched := true, irqAsserted := true }
    let irq : InterruptLines := { nmiLatched := false, irqAsserted := true }
    let none : InterruptLines := { nmiLatched := false, irqAsserted := false }
    both.nmiLatched = true ∧
    (irq.nmiLatched = false ∧ irq.irqAsserted = true ∧ base.p.i = false) ∧
    (irq.nmiLatched = false ∧ (irq.irqAsserted = false ∨ State.reset.p.i = true)) ∧
    (none.nmiLatched = false ∧ (none.irqAsserted = false ∨ base.p.i = true)) ∧ stackIsRam base :=
  ⟨rfl, ⟨rfl, rfl, rfl⟩, ⟨rfl, .inr rfl⟩, ⟨rfl, .inl rfl⟩, base_stackIsRam⟩

end Sys2Proof.Tests
end

section
/-! The statements of family 00_scope: what every step and every run keeps (O6, O7), and what reads and writes through
the bus give (O9). -/

namespace Sys2Proof.Scope

open Sys2Proof.Machine Sys2Proof.Safety

/-! ### What one state keeps of another

`Keeps s t` is closed under each shared operation of the model, so the lemmas below take `Keeps s u` to `Keeps s` of
the operation on `u`, and an instruction's proof is the chain of the operations its meaning is made of. -/

/-- `t` meets the invariant if `s` does, and has the same parameters: the map of the bus and
`ADMIT_UNDOCUMENTED` (R3). -/
structure Keeps (s t : State) : Prop where
  inv_of_inv : inv s → inv t
  regions : t.bus.regions = s.bus.regions
  admitUndocumented : t.admitUndocumented = s.admitUndocumented

namespace Keeps

theorem refl (s : State) : Keeps s s := ⟨id, rfl, rfl⟩

variable {s u : State} (h : Keeps s u)
include h

/-- Only the bus and `admitUndocumented` matter: registers, flags, PC and `jammed` are free. -/
theorem congr {t : State} (hbus : t.bus = u.bus) (hadmit : t.admitUndocumented = u.admitUndocumented) :
    Keeps s t where
  inv_of_inv hs := by simpa only [inv, hbus] using h.inv_of_inv hs
  regions := by rw [hbus, h.regions]
  admitUndocumented := hadmit.trans h.admitUndocumented

/-! #### The two accesses of R31 -/

theorem afterRead (addr : Word) : Keeps s (u.afterRead addr) where
  inv_of_inv hs := by simpa [inv] using h.inv_of_inv hs
  regions := by simp [h.regions]
  admitUndocumented := h.admitUndocumented

theorem memWrite (addr : Word) (v : Byte) : Keeps s (u.memWrite addr v) where
  inv_of_inv hs := State.memWrite_wf (h.inv_of_inv hs) addr v
  regions := by simp [h.regions]
  admitUndocumented := h.admitUndocumented

theorem afterPair (lo hi : Word) : Keeps s (u.afterPair lo hi) := (h.afterRead lo).afterRead hi

theorem afterReads (l : List Word) : Keeps s (u.afterReads l) := by
  induction l generalizing u with
  | nil => exact h
  | cons addr l ih => exact ih (h.afterRead addr)

theorem afterFetch : Keeps s u.afterFetch := h.afterReads _

/-! #### The stack and the traps -/

theorem push (v : Byte) : Keeps s (u.push v) := (h.memWrite _ v).congr rfl rfl

theorem pull : Keeps s u.pull := (h.afterRead _).congr rfl rfl

theorem push16 (w : Word) : Keeps s (u.push16 w) := (h.push _).push _

theorem pull16 : Keeps s u.pull16 := h.pull.pull

theorem enterTrap (ret : Word) (b : Bool) (vector : Word) : Keeps s (u.enterTrap ret b vector) :=
  (((h.push16 ret).push _).afterPair vector _).congr rfl rfl

theorem returnFromTrap : Keeps s u.returnFromTrap := h.pull.pull16.congr rfl rfl

/-! #### The operand forms -/

theorem afterEa (m : EaMode) : Keeps s (u.afterEa m) := by
  cases m with
  | zpg | zpgX | zpgY | abs | absX | absY => exact h
  | xInd | indY => exact h.afterPair _ _

theorem afterByteAt (m : EaMode) : Keeps s (u.afterByteAt m) := (h.afterEa m).afterRead _

theorem storeAt (m : EaMode) (v : Byte) : Keeps s (u.storeAt m v) := (h.afterEa m).memWrite _ v

theorem updateAt (m : EaMode) (v : Byte) : Keeps s (u.updateAt m v) := (h.afterByteAt m).memWrite _ v

theorem afterOperand (o : ReadOperand) : Keeps s (u.afterOperand o) := by
  cases o with
  | imm => exact h
  | mem m => exact h.afterByteAt m

theorem afterNopOperand (o : NopOperand) : Keeps s (u.afterNopOperand o) := by
  cases o with
  | impl => exact h
  | mem m => exact h.afterByteAt m

theorem afterJmpTarget (o : JmpOperand) : Keeps s (u.afterJmpTarget o) := by
  cases o with
  | abs => exact h
  | ind => exact h.afterPair _ _

theorem shift (f : Byte → Bool → ShiftResult) (o : RmwOperand) : Keeps s (u.shift f o) := by
  cases o with
  | acc => exact h.congr rfl rfl
  | mem m => exact (h.updateAt m _).congr rfl rfl

theorem branch (cond : Bool) (off : Byte) : Keeps s (u.branch cond off) := by
  rw [State.branch_eq]
  exact h.congr rfl rfl

theorem resetStep (r : ResetDraw) : Keeps s (u.resetStep r) := (h.afterPair _ _).congr rfl rfl

end Keeps

/-! ### Outcomes -/

/-- The next state of the outcome, if it has one, keeps what `Keeps` says of `s`. -/
def OutcomeKeeps (s : State) (o : Out) : Prop := ∀ t, o = .next t → Keeps s t

theorem outcomeKeeps_next {s t : State} (h : Keeps s t) : OutcomeKeeps s (.next t)
  | _, rfl => h

theorem outcomeKeeps_fault (s : State) (r : Fault) : OutcomeKeeps s (.fault r) := fun _ h => nomatch h

theorem outcomeKeeps_refused (s : State) (r : Refusal) : OutcomeKeeps s (.refused r) := fun _ h => nomatch h

/-- ARR answers with A, the flags and PC changed, or is refused where D is set (R189). -/
theorem execArr_keeps {s u : State} (h : Keeps s u) (b1 : Byte) : OutcomeKeeps s (execArr b1 u) := by
  unfold execArr
  split
  · exact outcomeKeeps_refused s _
  · exact outcomeKeeps_next (h.congr rfl rfl)

/-- Every instruction is a chain of shared operations and of updates to the registers, the flags, PC and `jammed`. -/
theorem exec_keeps {s u : State} (h : Keeps s u) (i : Instr) : OutcomeKeeps s (exec i u) := by
  cases i with
  | lda o | ldx o | ldy o | adc o | sbc o | and o | ora o | eor o | cmp o | cpx o | cpy o =>
    exact outcomeKeeps_next ((h.afterOperand o).congr rfl rfl)
  | bit m => exact outcomeKeeps_next ((h.afterByteAt m).congr rfl rfl)
  | nopUndoc op o => exact outcomeKeeps_next ((h.afterNopOperand o).congr rfl rfl)
  | sta m | stx m | sty m => exact outcomeKeeps_next ((h.storeAt m _).congr rfl rfl)
  | asl o | lsr o | rol o | ror o => exact outcomeKeeps_next ((h.shift _ o).congr rfl rfl)
  | inc m | dec m | slo m | rla m | sre m | rra m =>
    exact outcomeKeeps_next ((h.updateAt m _).congr rfl rfl)
  | bpl off | bmi off | bvc off | bvs off | bcc off | bcs off | bne off | beq off =>
    exact outcomeKeeps_next (h.branch _ off)
  | brk => exact outcomeKeeps_next (h.enterTrap _ _ _)
  | rti => exact outcomeKeeps_next h.returnFromTrap
  | jsr target => exact outcomeKeeps_next (((h.push16 _).afterRead _).congr rfl rfl)
  | rts => exact outcomeKeeps_next (h.pull16.congr rfl rfl)
  | jmp o => exact outcomeKeeps_next ((h.afterJmpTarget o).congr rfl rfl)
  | pha | php => exact outcomeKeeps_next ((h.push _).congr rfl rfl)
  | pla | plp => exact outcomeKeeps_next (h.pull.congr rfl rfl)
  | clc | sec | cli | sei | clv | cld | sed | tax | txa | tay | tya | tsx | txs =>
    exact outcomeKeeps_next (h.congr rfl rfl)
  | inx | iny | dex | dey | nop | jam | anc | alr => exact outcomeKeeps_next (h.congr rfl rfl)
  | arr b1 => exact execArr_keeps h b1
  | unlisted op => exact outcomeKeeps_refused s _

theorem step_keeps {s u : State} (h : Keeps s u) : OutcomeKeeps s (step u) := by
  unfold step
  split
  · exact outcomeKeeps_fault s _
  · split
    · exact exec_keeps h.afterFetch _
    · exact outcomeKeeps_refused s _

theorem agentStep_keeps {s u : State} (h : Keeps s u) (e : Event) : OutcomeKeeps s (agentStep e u) := by
  cases e with
  | instruction => exact step_keeps h
  | reset r => exact outcomeKeeps_next (h.resetStep r)

theorem runEvents_keeps {s u : State} (h : Keeps s u) (es : List Event) : OutcomeKeeps s (runEvents es u) := by
  induction es generalizing u with
  | nil => exact outcomeKeeps_next h
  | cons e es ih =>
    unfold runEvents
    split
    next v hv => exact ih (agentStep_keeps h e v hv)
    next => exact outcomeKeeps_fault s _
    next => exact outcomeKeeps_refused s _

theorem Keeps.of_inv {s t : State} (h : Keeps s t) (hs : inv s) :
    inv t ∧ t.bus.regions = s.bus.regions ∧ t.admitUndocumented = s.admitUndocumented :=
  ⟨h.inv_of_inv hs, h.regions, h.admitUndocumented⟩

/-- Settles O6: an instruction and a reset are chains of operations each of which keeps the invariant and the
parameters. -/
theorem everyStepKeepsTheInvariant : Obligations.EveryStepKeepsTheInvariant := by
  intro s hs
  exact ⟨fun t ht => (step_keeps (.refl s) t ht).of_inv hs, fun r => ((Keeps.refl s).resetStep r).of_inv hs⟩

/-- Settles O7, by induction on the list of events. -/
theorem everyRunKeepsTheInvariant : Obligations.EveryRunKeepsTheInvariant := by
  intro es s t hs ht
  exact (runEvents_keeps (.refl s) es t ht).of_inv hs

/-! ### Reading and writing through the bus -/

/-- Two internal addresses with one bus address read alike (R31). -/
theorem memRead_of_busAddr_eq {a b : Word} (h : busAddr a = busAddr b) (s : State) : s.memRead a = s.memRead b := by
  simp only [State.memRead, h]

theorem memRead_memWrite_of_busAddr_eq {s : State} {addr b : Word} (hram : ramAt s addr)
    (h : busAddr addr = busAddr b) (v : Byte) : (s.memWrite addr v).memRead b = v := by
  rw [← memRead_of_busAddr_eq h, State.memRead_memWrite_same hram]

theorem write_of_ram {b : Bus} {a : Nat} (h : b.locationAt a = .ram) (v : Byte) :
    b.write a v = { b with mem := b.mem.write a v } := by
  simp only [Bus.write, h]

theorem write_of_rom {b : Bus} {a : Nat} (h : b.locationAt a = .rom) (v : Byte) : b.write a v = b := by
  simp only [Bus.write, h]

theorem read_of_device {b : Bus} {a : Nat} (h : b.locationAt a = .device) :
    b.read a = (Config.deviceByte b.events a, { b with events := .read a :: b.events }) := by
  simp only [Bus.read, h]

theorem write_of_device {b : Bus} {a : Nat} (h : b.locationAt a = .device) (v : Byte) :
    b.write a v = { b with events := .write a v :: b.events } := by
  simp only [Bus.write, h]

/-- Settles O9: the core's reads and writes first, then the bus by what stands at the address: the default bus,
ROM, a device. -/
theorem readGivesTheLatestWrite : Obligations.ReadGivesTheLatestWrite := by
  refine ⟨fun s addr b v => ⟨?_, ?_, ?_, rfl, rfl⟩, ?_, ?_, ?_⟩
  · exact fun hram h => memRead_memWrite_of_busAddr_eq hram h v
  · exact fun hb h => State.memRead_memWrite_other hb h v
  · exact fun hb => State.memRead_afterRead hb addr
  · intro b a v hdefault
    have hram := Bus.locationAt_default hdefault a
    exact ⟨Bus.read_of_memory (by simp [hram]), write_of_ram hram v⟩
  · exact fun b a v hrom => ⟨Bus.read_of_memory (by simp [hrom]), write_of_rom hrom v⟩
  · exact fun b a v hdev => ⟨read_of_device hdev, write_of_device hdev v⟩

end Sys2Proof.Scope
end

section
/-! The statements of family 10_state: what fetch and step do with the bytes at PC (O51, O52), which registers, flags
and memory an instruction changes (O53, O54, O55), the status byte (O13, O39), JAM (O45) and reset (O5, O57). -/

namespace Sys2Proof.AgentState

open Sys2Proof.Machine Sys2Proof.Safety

/-! ### Decoding what the encoder wrote (R51, R67) -/

/-- The cell takes exactly these operand bytes, an address low byte first, and gives the instruction. -/
inductive Takes : Row → List Byte → Instr → Prop
  | f1 (i : Instr) : Takes (.f1 i) [] i
  | f2 (k : Byte → Instr) (b1 : Byte) : Takes (.f2 k) [b1] (k b1)
  | f3 (k : Word → Instr) (w : Word) : Takes (.f3 k) [loByte w, hiByte w] (k w)

theorem decode_of_takes {op : Byte} {bytes : List Byte} {i : Instr} (h : Takes (opcodeRow op) bytes i)
    (rest : List Byte) : decode (op :: bytes ++ rest) = .ok (i, rest) := by
  generalize hrow : opcodeRow op = row at h
  cases h <;> simp [decode, hrow]

/-- The opcode byte of `i` selects a cell that takes the operand bytes of `i` and gives `i` back. -/
def HasRow (i : Instr) : Prop := ∃ op, i.opcode = some op ∧ Takes (opcodeRow op) i.operandBytes i

theorem decode_encode_of_hasRow {i : Instr} (h : HasRow i) (rest : List Byte) :
    decode (encode i ++ rest) = .ok (i, rest) := by
  obtain ⟨op, hop, htakes⟩ := h
  simpa only [encode, hop] using decode_of_takes htakes rest

theorem opcodeRow_jam {op : Byte} (h : op ∈ jamOpcodes) : opcodeRow op = .f1 (.jam op) := by
  fin_cases h <;> rfl

theorem opcodeRow_unlisted {op : Byte} (h : op ∈ unlistedOpcodes) : opcodeRow op = .f1 (.unlisted op) := by
  fin_cases h <;> rfl

theorem opcodeRow_anc {op : Byte} (h : op = 0x0B ∨ op = 0x2B) : opcodeRow op = .f2 (.anc op) := by
  rcases h with rfl | rfl <;> rfl

theorem hasRow_jam {op : Byte} (h : op ∈ jamOpcodes) : HasRow (.jam op) := by
  refine ⟨op, if_pos (List.contains_iff_mem.mpr h), ?_⟩
  rw [opcodeRow_jam h]
  exact .f1 _

theorem hasRow_unlisted {op : Byte} (h : op ∈ unlistedOpcodes) : HasRow (.unlisted op) := by
  refine ⟨op, if_pos (List.contains_iff_mem.mpr h), ?_⟩
  rw [opcodeRow_unlisted h]
  exact .f1 _

theorem hasRow_anc {op : Byte} (h : (op == 0x0B || op == 0x2B) = true) (b1 : Byte) : HasRow (.anc op b1) := by
  refine ⟨op, if_pos h, ?_⟩
  rw [opcodeRow_anc (by simpa using h)]
  exact .f2 _ b1

/-- Each shape of the undocumented NOP has its own opcode bytes (R188). -/
theorem hasRow_nopUndoc {op : Byte} {o : NopOperand} (h : op ∈ nopOpcodes o) : HasRow (.nopUndoc op o) := by
  refine ⟨op, if_pos (List.contains_iff_mem.mpr h), ?_⟩
  rcases o with _ | m
  · fin_cases h <;> exact .f1 _
  cases m with
  | zpg b1 => fin_cases h <;> exact .f2 _ b1
  | zpgX b1 => fin_cases h <;> exact .f2 _ b1
  | abs w => obtain rfl := List.mem_singleton.mp h; exact .f3 _ w
  | absX w => fin_cases h <;> exact .f3 _ w
  | zpgY | absY | xInd | indY => exact nomatch h

theorem hasRow_of_wf {i : Instr} (h : i.wf = true) : HasRow i := by
  cases i with
  | lda o | adc o | sbc o | and o | ora o | eor o | cmp o =>
    rcases o with b1 | m
    · exact ⟨_, rfl, .f2 _ b1⟩
    cases m with
    | zpg b1 | zpgX b1 | xInd b1 | indY b1 => exact ⟨_, rfl, .f2 _ b1⟩
    | abs w | absX w | absY w => exact ⟨_, rfl, .f3 _ w⟩
    | zpgY => exact nomatch h
  | sta m | slo m | rla m | sre m =>
    cases m with
    | zpg b1 | zpgX b1 | xInd b1 | indY b1 => exact ⟨_, rfl, .f2 _ b1⟩
    | abs w | absX w | absY w => exact ⟨_, rfl, .f3 _ w⟩
    | zpgY => exact nomatch h
  | ldx o =>
    rcases o with b1 | m
    · exact ⟨_, rfl, .f2 _ b1⟩
    cases m with
    | zpg b1 | zpgY b1 => exact ⟨_, rfl, .f2 _ b1⟩
    | abs w | absY w => exact ⟨_, rfl, .f3 _ w⟩
    | zpgX | absX | xInd | indY => exact nomatch h
  | ldy o =>
    rcases o with b1 | m
    · exact ⟨_, rfl, .f2 _ b1⟩
    cases m with
    | zpg b1 | zpgX b1 => exact ⟨_, rfl, .f2 _ b1⟩
    | abs w | absX w => exact ⟨_, rfl, .f3 _ w⟩
    | zpgY | absY | xInd | indY => exact nomatch h
  | asl o | lsr o | rol o | ror o =>
    rcases o with _ | m
    · exact ⟨_, rfl, .f1 _⟩
    cases m with
    | zpg b1 | zpgX b1 => exact ⟨_, rfl, .f2 _ b1⟩
    | abs w | absX w => exact ⟨_, rfl, .f3 _ w⟩
    | zpgY | absY | xInd | indY => exact nomatch h
  | inc m | dec m =>
    cases m with
    | zpg b1 | zpgX b1 => exact ⟨_, rfl, .f2 _ b1⟩
    | abs w | absX w => exact ⟨_, rfl, .f3 _ w⟩
    | zpgY | absY | xInd | indY => exact nomatch h
  | stx m =>
    cases m with
    | zpg b1 | zpgY b1 => exact ⟨_, rfl, .f2 _ b1⟩
    | abs w => exact ⟨_, rfl, .f3 _ w⟩
    | zpgX | absX | absY | xInd | indY => exact nomatch h
  | sty m =>
    cases m with
    | zpg b1 | zpgX b1 => exact ⟨_, rfl, .f2 _ b1⟩
    | abs w => exact ⟨_, rfl, .f3 _ w⟩
    | zpgY | absX | absY | xInd | indY => exact nomatch h
  | cpx o | cpy o =>
    rcases o with b1 | m
    · exact ⟨_, rfl, .f2 _ b1⟩
    cases m with
    | zpg b1 => exact ⟨_, rfl, .f2 _ b1⟩
    | abs w => exact ⟨_, rfl, .f3 _ w⟩
    | zpgX | zpgY | absX | absY | xInd | indY => exact nomatch h
  | bit m =>
    cases m with
    | zpg b1 => exact ⟨_, rfl, .f2 _ b1⟩
    | abs w => exact ⟨_, rfl, .f3 _ w⟩
    | zpgX | zpgY | absX | absY | xInd | indY => exact nomatch h
  | rra m =>
    cases m with
    | zpg b1 | zpgX b1 | xInd b1 | indY b1 => exact ⟨_, rfl, .f2 _ b1⟩
    | abs w => exact ⟨_, rfl, .f3 _ w⟩
    | zpgY | absX | absY => exact nomatch h
  | bpl b1 | bmi b1 | bvc b1 | bvs b1 | bcc b1 | bcs b1 | bne b1 | beq b1 | alr b1 | arr b1 =>
    exact ⟨_, rfl, .f2 _ b1⟩
  | jsr w => exact ⟨_, rfl, .f3 _ w⟩
  | jmp o => cases o with | abs w | ind w => exact ⟨_, rfl, .f3 _ w⟩
  | brk | rti | rts | clc | sec | cli | sei | clv | cld | sed | tax | txa | tay | tya | tsx | txs | pha | pla
  | php | plp | inx | iny | dex | dey | nop => exact ⟨_, rfl, .f1 _⟩
  | jam op => exact hasRow_jam (List.contains_iff_mem.mp h)
  | anc op b1 => exact hasRow_anc h b1
  | nopUndoc op o => exact hasRow_nopUndoc (List.contains_iff_mem.mp h)
  | unlisted op => exact hasRow_unlisted (List.contains_iff_mem.mp h)

/-- The decoder undoes the encoder, whatever bytes follow. -/
theorem decode_encode {i : Instr} (h : i.wf = true) (rest : List Byte) :
    decode (encode i ++ rest) = .ok (i, rest) := decode_encode_of_hasRow (hasRow_of_wf h) rest

/-! ### Fetching (R50, R53) -/

theorem length_operandBytes (i : Instr) : i.operandBytes.length + 1 = i.len := by
  cases i with
  | lda o | ldx o | ldy o | adc o | sbc o | and o | ora o | eor o | cmp o | cpx o | cpy o =>
    rcases o with b1 | m
    · rfl
    · cases m <;> rfl
  | sta m | stx m | sty m | bit m | inc m | dec m | slo m | rla m | sre m | rra m => cases m <;> rfl
  | asl o | lsr o | rol o | ror o =>
    rcases o with _ | m
    · rfl
    · cases m <;> rfl
  | nopUndoc op o =>
    rcases o with _ | m
    · rfl
    · cases m <;> rfl
  | jmp o => cases o <;> rfl
  | _ => rfl

theorem length_encode {i : Instr} (h : i.wf = true) : (encode i).length = i.len := by
  obtain ⟨op, hop, -⟩ := hasRow_of_wf h
  rw [Laws.length_of_opcode hop, length_operandBytes]

theorem fetchLength_le_len (i : Instr) : fetchLength i ≤ i.len := by
  cases i with
  | jsr w => exact Nat.le_succ 2
  | _ => exact le_rfl

/-- The bytes lie in memory, no device among them, at PC and after it modulo 65536. -/
def LiesAtPc (s : State) (bytes : List Byte) : Prop :=
  ∀ k, k < bytes.length →
    ¬ deviceAt s (s.pc + BitVec.ofNat 16 k) ∧ s.memRead (s.pc + BitVec.ofNat 16 k) = bytes.getD k 0

theorem fetch_of_takes {s : State} {op : Byte} {bytes : List Byte} {i : Instr}
    (hrow : Takes (opcodeRow op) bytes i) (h : LiesAtPc s (op :: bytes)) : s.fetch = i := by
  obtain ⟨hmem, hop⟩ : ¬ deviceAt s s.pc ∧ s.memRead s.pc = op := by simpa using h 0 (by simp)
  have hread : s.afterRead s.pc = s := State.afterRead_of_memory hmem
  unfold State.fetch
  rw [hop, hread]
  generalize opcodeRow op = row at hrow
  cases hrow with
  | f1 => rfl
  | f2 k b1 =>
    have h1 : s.memRead (s.pc + 1) = b1 := (h 1 (by simp)).2
    simp only [h1]
  | f3 k w =>
    obtain ⟨hmem1, h1⟩ : ¬ deviceAt s (s.pc + 1) ∧ s.memRead (s.pc + 1) = loByte w := h 1 (by simp)
    have h2 : s.memRead (s.pc + 2) = hiByte w := (h 2 (by simp)).2
    simp only [State.readPair, State.afterRead_of_memory hmem1, h1, h2, hilo_hiByte_loByte]

theorem fetch_of_encode {s : State} {i : Instr} (hwf : i.wf = true) (h : LiesAtPc s (encode i)) :
    s.fetch = i := by
  obtain ⟨op, hop, hrow⟩ := hasRow_of_wf hwf
  exact fetch_of_takes hrow (by simpa only [encode, hop] using h)

/-- The step reads no byte past the encoding, and reading memory changes nothing. -/
theorem afterFetch_of_encode {s : State} {i : Instr} (hwf : i.wf = true) (h : LiesAtPc s (encode i)) :
    s.afterFetch = s := by
  rw [State.afterFetch, fetch_of_encode hwf h]
  refine s.afterReads_of_memory _ fun addr haddr => ?_
  obtain ⟨k, hk, rfl⟩ := List.mem_map.mp haddr
  have hlt : k < (encode i).length := by
    rw [length_encode hwf]
    exact (List.mem_range.mp hk).trans_le (fetchLength_le_len i)
  exact (h k hlt).1

theorem admits_iff (s : State) (i : Instr) : s.admits i = true ↔ (i.tier = 2 → s.admitUndocumented = true) := by
  simp [State.admits, imp_iff_not_or]

theorem step_of_admits {s : State} (hj : s.jammed = false) (h : s.admits s.fetch = true) :
    step s = exec s.fetch s.afterFetch := by
  simp [step, hj, h]

/-- Settles O51: the fetch gives the encoded instruction and leaves the state as it is. -/
theorem stepRunsTheEncodedInstruction : Obligations.StepRunsTheEncodedInstruction := by
  intro s i hj hwf htier hbytes
  have hfetch : s.fetch = i := fetch_of_encode hwf hbytes
  have hadm : s.admits s.fetch = true := by
    rw [hfetch, admits_iff]
    exact htier
  rw [step_of_admits hj hadm, hfetch, afterFetch_of_encode hwf hbytes]

/-! ### Outcomes and ARR -/

/-- The next state of the outcome, if it has one, meets `P`. -/
def Answers (P : State → Prop) (o : Out) : Prop := ∀ t, o = .next t → P t

theorem answers_next {P : State → Prop} {t : State} (h : P t) : Answers P (.next t)
  | _, rfl => h

theorem answers_refused (P : State → Prop) (r : Refusal) : Answers P (.refused r) := fun _ h => nomatch h

/-- What ARR computes where it runs (R189). -/
def arrNext (b1 : Byte) (s : State) : State :=
  let r := (shiftRor (s.a &&& b1) s.p.c).r
  { s with a := r, p := { s.p.setNZ r with c := r.getLsbD 6, v := r.getLsbD 6 ^^ r.getLsbD 5 } }.advance 2

/-- ARR is refused where D is set and runs where it is clear. -/
theorem execArr_cases (b1 : Byte) (s : State) :
    (s.p.d = true ∧ execArr b1 s = .refused .arrDecimal) ∨
    (s.p.d = false ∧ execArr b1 s = .next (arrNext b1 s)) := by
  cases hd : s.p.d with
  | true => exact .inl ⟨rfl, by simp [execArr, hd, Config.hasDecimal]⟩
  | false => exact .inr ⟨rfl, by simp [execArr, hd, arrNext]⟩

theorem execArr_answers {P : State → Prop} {b1 : Byte} {s : State} (h : P (arrNext b1 s)) :
    Answers P (execArr b1 s) := by
  rcases execArr_cases b1 s with ⟨-, e⟩ | ⟨-, e⟩ <;> rw [e]
  · exact answers_refused P _
  · exact answers_next h

/-! ### Where a step stops (R18, R50, R181, R189, R190) -/

/-- The only instructions that may answer no next state are the unlisted bytes and ARR. -/
theorem exec_cases (i : Instr) (s : State) :
    (∃ op, i = .unlisted op ∧ exec i s = .refused (.unlistedOpcode op)) ∨
    (∃ b1, i = .arr b1 ∧ s.p.d = true ∧ exec i s = .refused .arrDecimal) ∨
    ((∀ op, i ≠ .unlisted op) ∧ (∀ b1, i = .arr b1 → s.p.d = false) ∧ ∃ t, exec i s = .next t) := by
  cases i with
  | unlisted op => exact .inl ⟨op, rfl, rfl⟩
  | arr b1 =>
    rcases execArr_cases b1 s with ⟨hd, h⟩ | ⟨hd, h⟩
    · exact .inr (.inl ⟨b1, rfl, hd, h⟩)
    · exact .inr (.inr ⟨nofun, fun _ _ => hd, _, h⟩)
  | _ => exact .inr (.inr ⟨nofun, nofun, _, rfl⟩)

theorem exec_ne_fault (i : Instr) (s : State) (f : Fault) : exec i s ≠ .fault f := by
  rcases exec_cases i s with ⟨_, _, h⟩ | ⟨_, _, _, h⟩ | ⟨_, _, _, h⟩ <;> rw [h] <;> exact nofun

theorem exec_eq_refused_iff (i : Instr) (s : State) (r : Refusal) :
    exec i s = .refused r ↔
      (∃ op, i = .unlisted op ∧ r = .unlistedOpcode op) ∨ (∃ b1, i = .arr b1 ∧ s.p.d = true ∧ r = .arrDecimal) := by
  rcases exec_cases i s with ⟨op, rfl, h⟩ | ⟨b1, rfl, hd, h⟩ | ⟨hu, ha, t, h⟩
  · simp [h, eq_comm (a := r)]
  · simp [h, hd, eq_comm (a := r)]
  · rw [h]
    refine ⟨nofun, ?_⟩
    rintro (⟨op, rfl, -⟩ | ⟨b1, rfl, hd, -⟩)
    · exact absurd rfl (hu op)
    · exact absurd (ha b1 rfl) (by simp [hd])

theorem step_eq_fault_iff (s : State) (f : Fault) : step s = .fault f ↔ s.jammed = true ∧ f = .jammed := by
  unfold step
  split
  next hj => exact ⟨fun h => ⟨hj, (Host.Outcome.fault.inj h).symm⟩, fun h => h.2 ▸ rfl⟩
  next hj =>
    split
    · simp [hj, exec_ne_fault]
    · simp [hj]

theorem step_eq_refused_iff (s : State) (r : Refusal) : step s = .refused r ↔ s.jammed = false ∧
    ((s.admits s.fetch = true ∧ exec s.fetch s.afterFetch = .refused r) ∨
      (s.admits s.fetch = false ∧ r = .undocumentedNotAdmitted)) := by
  unfold step
  split
  next hj => simp [hj]
  next hj =>
    split
    next ha => simp [hj, ha]
    next ha => simp [hj, ha, eq_comm]

@[simp] theorem afterFetch_p (s : State) : s.afterFetch.p = s.p := by rw [State.afterFetch_eq]

theorem admits_eq_false_iff (s : State) (i : Instr) :
    s.admits i = false ↔ i.tier = 2 ∧ s.admitUndocumented = false := by
  simp [State.admits]

/-- Settles O52: `exec` refuses the unlisted bytes, which are of tier 3, and ARR with D set, which is of tier 2. -/
theorem stepStopsExactlyWhereTheRulesSay : Obligations.StepStopsExactlyWhereTheRulesSay := by
  refine fun s => ⟨step_eq_fault_iff s, fun r => ?_⟩
  rw [step_eq_refused_iff, exec_eq_refused_iff, afterFetch_p, admits_eq_false_iff]
  refine and_congr_right fun _ => ⟨?_, ?_⟩
  · rintro (⟨hadm, ⟨op, hi, hr⟩ | ⟨b1, hi, hd, hr⟩⟩ | ⟨⟨ht, hadm⟩, hr⟩)
    · exact .inl ⟨op, hi, hr⟩
    · rw [hi, admits_iff] at hadm
      exact .inr (.inr ⟨b1, hi, hadm rfl, hd, hr⟩)
    · exact .inr (.inl ⟨ht, hadm, hr⟩)
  · rintro (⟨op, hi, hr⟩ | ⟨ht, hadm, hr⟩ | ⟨b1, hi, hadm, hd, hr⟩)
    · have hadm : s.admits s.fetch = true := by rw [hi]; rfl
      exact .inl ⟨hadm, .inl ⟨op, hi, hr⟩⟩
    · exact .inr ⟨⟨ht, hadm⟩, hr⟩
    · have hadm : s.admits s.fetch = true := (admits_iff s _).mpr fun _ => hadm
      exact .inl ⟨hadm, .inr ⟨b1, hi, hd, hr⟩⟩

/-! ### What an instruction's accesses leave as it was

`OnlyReads` says what reads leave alone. A read-modify-write changes the bus, and of the core what its equation below
names. -/

/-- `u` is `s` after reads alone: of the bus the bytes of memory are as before, and all of the core is. -/
structure OnlyReads (s u : State) : Prop where
  a : u.a = s.a
  x : u.x = s.x
  y : u.y = s.y
  sp : u.sp = s.sp
  pc : u.pc = s.pc
  p : u.p = s.p
  jammed : u.jammed = s.jammed
  mem : u.bus.mem = s.bus.mem

theorem OnlyReads.of_eq {s u : State} {b : Bus} (h : u = { s with bus := b }) (hmem : u.bus.mem = s.bus.mem) :
    OnlyReads s u := by
  subst h
  exact ⟨rfl, rfl, rfl, rfl, rfl, rfl, rfl, hmem⟩

section
variable (s : State)

theorem onlyReads_refl : OnlyReads s s := .of_eq rfl rfl

theorem onlyReads_afterPair (lo hi : Word) : OnlyReads s (s.afterPair lo hi) := .of_eq rfl (s.afterPair_mem lo hi)

theorem onlyReads_afterEa (m : EaMode) : OnlyReads s (s.afterEa m) := by
  cases m with
  | zpg | zpgX | zpgY | abs | absX | absY => exact onlyReads_refl s
  | xInd | indY => exact onlyReads_afterPair s _ _

theorem onlyReads_afterByteAt (m : EaMode) : OnlyReads s (s.afterByteAt m) :=
  .of_eq (s.afterByteAt_eq m) (s.afterByteAt_mem m)

theorem onlyReads_afterOperand (o : ReadOperand) : OnlyReads s (s.afterOperand o) :=
  .of_eq (s.afterOperand_eq o) (s.afterOperand_mem o)

theorem onlyReads_afterNopOperand (o : NopOperand) : OnlyReads s (s.afterNopOperand o) := by
  cases o with
  | impl => exact onlyReads_refl s
  | mem m => exact onlyReads_afterByteAt s m

theorem onlyReads_afterJmpTarget (o : JmpOperand) : OnlyReads s (s.afterJmpTarget o) := by
  cases o with
  | abs => exact onlyReads_refl s
  | ind => exact onlyReads_afterPair s _ _

theorem modify_eq (f : Byte → Byte) (m : EaMode) :
    s.modify f m =
      { s with p := s.p.setNZ (f (s.byteAt m)), bus := (s.updateAt m (f (s.byteAt m))).bus } :=
  congrArg (fun u : State => u.setFlags _) (s.updateAt_eq m _)

theorem shift_mem_eq (f : Byte → Bool → ShiftResult) (m : EaMode) :
    s.shift f (.mem m) =
      { s with p := s.p.setShift (f (s.byteAt m) s.p.c), bus := (s.updateAt m (f (s.byteAt m) s.p.c).r).bus } :=
  congrArg (fun u : State => u.setFlags _) (s.updateAt_eq m _)

/-- A read-modify-write that also sets A and the flags. -/
theorem updateAt_with (a : Byte) (p : Flags) (m : EaMode) (v : Byte) :
    { s.updateAt m v with a := a, p := p } = { s with a := a, p := p, bus := (s.updateAt m v).bus } :=
  congrArg (fun u : State => { u with a := a, p := p }) (s.updateAt_eq m v)

theorem shiftCombine_eq (f : Byte → Bool → ShiftResult) (g : Byte → Byte → Byte) (m : EaMode) :
    s.shiftCombine f g m =
      { s with
        a := g s.a (f (s.byteAt m) s.p.c).r
        p := { s.p.setNZ (g s.a (f (s.byteAt m) s.p.c).r) with c := (f (s.byteAt m) s.p.c).c }
        bus := (s.updateAt m (f (s.byteAt m) s.p.c).r).bus } :=
  updateAt_with s _ _ m _

end

/-! ### The program counter (R13) -/

theorem advance_pc_of_eq {s u : State} (h : u.pc = s.pc) (len : Nat) :
    (u.advance len).pc = s.pc + BitVec.ofNat 16 len := by
  rw [State.advance_pc, h]

theorem shift_pc (s : State) (f : Byte → Bool → ShiftResult) (o : RmwOperand) : (s.shift f o).pc = s.pc := by
  cases o with
  | acc => rfl
  | mem m => rw [shift_mem_eq]

theorem exec_pc {i : Instr} (hi : movesPc i = false) (s : State) :
    Answers (fun t => t.pc = s.pc + BitVec.ofNat 16 i.len) (exec i s) := by
  cases i with
  | lda o | ldx o | ldy o | adc o | sbc o | and o | ora o | eor o | cmp o | cpx o | cpy o =>
    exact answers_next (advance_pc_of_eq (onlyReads_afterOperand s o).pc _)
  | nopUndoc op o => exact answers_next (advance_pc_of_eq (onlyReads_afterNopOperand s o).pc _)
  | sta m | stx m | sty m => exact answers_next (advance_pc_of_eq (onlyReads_afterEa s m).pc _)
  | bit m => exact answers_next (advance_pc_of_eq (onlyReads_afterByteAt s m).pc _)
  | inc m | dec m => exact answers_next (advance_pc_of_eq (by rw [modify_eq]) _)
  | slo m | rla m | sre m => exact answers_next (advance_pc_of_eq (by rw [shiftCombine_eq]) _)
  | rra m => exact answers_next (advance_pc_of_eq (by rw [State.setArith_pc, State.updateAt_eq]) _)
  | asl o | lsr o | rol o | ror o => exact answers_next (advance_pc_of_eq (shift_pc s _ o) _)
  | clc | sec | cli | sei | clv | cld | sed | tax | txa | tay | tya | tsx | txs | inx | iny | dex | dey | nop
  | pha | php | pla | plp | anc | alr => exact answers_next rfl
  | arr b1 => exact execArr_answers rfl
  | unlisted op => exact answers_refused _ _
  | bpl | bmi | bvc | bvs | bcc | bcs | bne | beq | brk | rti | jsr | rts | jmp | jam => exact nomatch hi

/-- Settles O55: all but the instructions of control and JAM end in `advance`. -/
theorem pcMovesPastTheInstruction : Obligations.PcMovesPastTheInstruction :=
  fun _ s t ht hi => exec_pc hi s t ht

/-! ### Registers, memory and `jammed` (R10, R11, R12, R18) -/

/-- Of A, X, Y, S, the bytes of memory and `jammed`, the instruction writes those alone whose list names it. -/
structure WritesOnlyListed (i : Instr) (s t : State) : Prop where
  a : writesA i = false → t.a = s.a
  x : writesX i = false → t.x = s.x
  y : writesY i = false → t.y = s.y
  sp : writesS i = false → t.sp = s.sp
  mem : writesMemory i = false → t.bus.mem = s.bus.mem
  jammed : (∀ op, i ≠ .jam op) → t.jammed = s.jammed

theorem pull_mem (s : State) : s.pull.bus.mem = s.bus.mem := s.bus.read_snd_mem _

theorem pull16_mem (s : State) : s.pull16.bus.mem = s.bus.mem := (pull_mem s.pull).trans (pull_mem s)

/-! The shapes of a next state, by what is written beside flags and PC. -/

section
variable {i : Instr} {s u : State} (h : OnlyReads s u)
include h

theorem OnlyReads.writes_none (p : Flags) (pc : Word) : WritesOnlyListed i s { u with p := p, pc := pc } :=
  ⟨fun _ => h.a, fun _ => h.x, fun _ => h.y, fun _ => h.sp, fun _ => h.mem, fun _ => h.jammed⟩

theorem OnlyReads.writes_a (hi : writesA i = true) (a : Byte) (p : Flags) (pc : Word) :
    WritesOnlyListed i s { u with a := a, p := p, pc := pc } :=
  ⟨by simp [hi], fun _ => h.x, fun _ => h.y, fun _ => h.sp, fun _ => h.mem, fun _ => h.jammed⟩

theorem OnlyReads.writes_x (hi : writesX i = true) (x : Byte) (p : Flags) (pc : Word) :
    WritesOnlyListed i s { u with x := x, p := p, pc := pc } :=
  ⟨fun _ => h.a, by simp [hi], fun _ => h.y, fun _ => h.sp, fun _ => h.mem, fun _ => h.jammed⟩

theorem OnlyReads.writes_y (hi : writesY i = true) (y : Byte) (p : Flags) (pc : Word) :
    WritesOnlyListed i s { u with y := y, p := p, pc := pc } :=
  ⟨fun _ => h.a, fun _ => h.x, by simp [hi], fun _ => h.sp, fun _ => h.mem, fun _ => h.jammed⟩

end

section
variable {i : Instr} (s : State) (hmem : writesMemory i = true)
include hmem

theorem writes_mem (p : Flags) (pc : Word) (b : Bus) :
    WritesOnlyListed i s { s with p := p, pc := pc, bus := b } :=
  ⟨fun _ => rfl, fun _ => rfl, fun _ => rfl, fun _ => rfl, by simp [hmem], fun _ => rfl⟩

theorem writes_a_mem (ha : writesA i = true) (a : Byte) (p : Flags) (pc : Word) (b : Bus) :
    WritesOnlyListed i s { s with a := a, p := p, pc := pc, bus := b } :=
  ⟨by simp [ha], fun _ => rfl, fun _ => rfl, fun _ => rfl, by simp [hmem], fun _ => rfl⟩

end

/-- An instruction without a push or a pull has one of the shapes above; a push, a pull and JAM go field by field, a
field that a list names needing nothing (`nofun`). -/
theorem exec_writesOnlyListed (i : Instr) (s : State) : Answers (WritesOnlyListed i s) (exec i s) := by
  cases i with
  | lda o | adc o | sbc o | and o | ora o | eor o =>
    exact answers_next ((onlyReads_afterOperand s o).writes_a rfl _ _ _)
  | ldx o => exact answers_next ((onlyReads_afterOperand s o).writes_x rfl _ _ _)
  | ldy o => exact answers_next ((onlyReads_afterOperand s o).writes_y rfl _ _ _)
  | cmp o | cpx o | cpy o => exact answers_next ((onlyReads_afterOperand s o).writes_none _ _)
  | bit m => exact answers_next ((onlyReads_afterByteAt s m).writes_none _ _)
  | nopUndoc op o => exact answers_next ((onlyReads_afterNopOperand s o).writes_none _ _)
  | jmp o => exact answers_next ((onlyReads_afterJmpTarget s o).writes_none _ _)
  | bpl off | bmi off | bvc off | bvs off | bcc off | bcs off | bne off | beq off =>
    refine answers_next ?_
    rw [State.branch_eq]
    exact (onlyReads_refl s).writes_none _ _
  | clc | sec | cli | sei | clv | cld | sed | nop => exact answers_next ((onlyReads_refl s).writes_none _ _)
  | txa | tya | anc | alr => exact answers_next ((onlyReads_refl s).writes_a rfl _ _ _)
  | arr b1 => exact execArr_answers ((onlyReads_refl s).writes_a rfl _ _ _)
  | tax | tsx | inx | dex => exact answers_next ((onlyReads_refl s).writes_x rfl _ _ _)
  | tay | iny | dey => exact answers_next ((onlyReads_refl s).writes_y rfl _ _ _)
  | sta m | stx m | sty m =>
    refine answers_next ?_
    rw [State.storeAt_eq]
    exact writes_mem s rfl _ _ _
  | inc m | dec m =>
    refine answers_next ?_
    rw [modify_eq]
    exact writes_mem s rfl _ _ _
  | slo m | rla m | sre m =>
    refine answers_next ?_
    rw [shiftCombine_eq]
    exact writes_a_mem s rfl rfl _ _ _ _
  | rra m =>
    refine answers_next ?_
    rw [State.updateAt_eq]
    exact writes_a_mem s rfl rfl _ _ _ _
  | asl o | lsr o | rol o | ror o =>
    rcases o with _ | m
    · exact answers_next ((onlyReads_refl s).writes_a rfl _ _ _)
    · refine answers_next ?_
      rw [shift_mem_eq]
      exact writes_mem s rfl _ _ _
  | txs => exact answers_next ⟨fun _ => rfl, fun _ => rfl, fun _ => rfl, nofun, fun _ => rfl, fun _ => rfl⟩
  | pha | php | jsr =>
    exact answers_next ⟨fun _ => by simp, fun _ => by simp, fun _ => by simp, nofun, nofun, fun _ => by simp⟩
  | brk =>
    exact answers_next ⟨fun _ => s.enterTrap_a _ _ _, fun _ => s.enterTrap_x _ _ _, fun _ => s.enterTrap_y _ _ _,
      nofun, nofun, fun _ => s.enterTrap_jammed _ _ _⟩
  | pla =>
    exact answers_next ⟨nofun, fun _ => rfl, fun _ => rfl, nofun, fun _ => pull_mem s, fun _ => rfl⟩
  | plp =>
    exact answers_next
      ⟨fun _ => rfl, fun _ => rfl, fun _ => rfl, nofun, fun _ => pull_mem s, fun _ => rfl⟩
  | rts =>
    exact answers_next ⟨fun _ => s.pull16_a, fun _ => s.pull16_x, fun _ => s.pull16_y, nofun,
      fun _ => pull16_mem s, fun _ => s.pull16_jammed⟩
  | rti =>
    have hmem : s.pull.pull16.bus.mem = s.bus.mem := (pull16_mem s.pull).trans (pull_mem s)
    exact answers_next ⟨fun _ => s.returnFromTrap_a, fun _ => s.returnFromTrap_x, fun _ => s.returnFromTrap_y,
      nofun, fun _ => hmem, fun _ => s.returnFromTrap_jammed⟩
  | jam op =>
    exact answers_next
      ⟨fun _ => rfl, fun _ => rfl, fun _ => rfl, fun _ => rfl, fun _ => rfl, fun h => absurd rfl (h op)⟩
  | unlisted op => exact answers_refused _ _

theorem memRead_of_memory {s : State} {addr : Word} (h : ¬ deviceAt s addr) :
    s.memRead addr = s.bus.mem.read (busAddr addr) := by
  rw [State.memRead, Bus.read_of_memory h]

/-- Memory reads alike where its bytes and the map are the same. -/
theorem sameMemory_of_mem {s t : State} (hregions : t.bus.regions = s.bus.regions)
    (hmem : t.bus.mem = s.bus.mem) : sameMemory s t := by
  refine ⟨hregions, fun addr haddr => ?_⟩
  have ht : ¬ deviceAt t addr := by rwa [deviceAt, Bus.locationAt_congr hregions]
  rw [memRead_of_memory haddr, memRead_of_memory ht, hmem]

/-- Settles O54; the parameters are kept by O6's lemma on `exec`. -/
theorem onlyListedInstructionsWrite : Obligations.OnlyListedInstructionsWrite := by
  intro i s t ht
  have h := exec_writesOnlyListed i s t ht
  have hkeeps := Scope.exec_keeps (.refl s) i t ht
  refine ⟨h.a, h.x, h.y, h.sp, fun hi => sameMemory_of_mem hkeeps.regions (h.mem hi), ?_, h.jammed,
    hkeeps.regions, hkeeps.admitUndocumented⟩
  rintro ⟨op, rfl⟩
  obtain rfl := Host.Outcome.next.inj ht
  rfl

/-! ### The flag table (R17) -/

section
variable {p q : Flags} (h : q = p)
include h

theorem kept_holds : ({} : FlagLine).holds p q := by
  subst h
  exact ⟨rfl, rfl, rfl, rfl, rfl, rfl⟩

theorem setNZ_holds (v : Byte) : FlagLine.holds { n := .modified, z := .modified } p (q.setNZ v) := by
  subst h
  exact ⟨trivial, rfl, rfl, rfl, trivial, rfl⟩

theorem setArith_holds (r : ArithResult) :
    FlagLine.holds { n := .modified, v := .modified, z := .modified, c := .modified } p (q.setArith r) := by
  subst h
  exact ⟨trivial, trivial, rfl, rfl, trivial, trivial⟩

theorem compare_holds (r m : Byte) :
    FlagLine.holds { n := .modified, z := .modified, c := .modified } p (q.compare r m) := by
  subst h
  exact ⟨trivial, rfl, rfl, rfl, trivial, trivial⟩

end

/-- N is bit 7 of the shifted byte, which LSR clears (R104). -/
theorem setShift_shiftLsr_holds (p : Flags) (v : Byte) (c : Bool) :
    FlagLine.holds { n := .cleared, z := .modified, c := .modified } p (p.setShift (shiftLsr v c)) := by
  have hn : (shiftLsr v c).r.msb = false := by simp [shiftLsr]
  exact ⟨hn, rfl, rfl, rfl, trivial, trivial⟩

theorem exec_flags (i : Instr) (s : State) :
    Answers (fun t => (flagLine s i).holds s.p t.p) (exec i s) := by
  cases i with
  | lda o | ldx o | ldy o | and o | ora o | eor o =>
    exact answers_next (setNZ_holds (onlyReads_afterOperand s o).p _)
  | inc | dec | inx | iny | dex | dey | tax | tay | txa | tya | tsx | pla => exact answers_next (setNZ_holds rfl _)
  | adc o | sbc o => exact answers_next (setArith_holds (onlyReads_afterOperand s o).p _)
  | rra m => exact answers_next (setArith_holds (onlyReads_afterByteAt s m).p _)
  | arr b1 => exact execArr_answers ⟨trivial, trivial, rfl, rfl, trivial, trivial⟩
  | asl o | rol o | ror o =>
    cases o with
    | acc | mem => exact answers_next ⟨trivial, rfl, rfl, rfl, trivial, trivial⟩
  | slo | rla | sre | anc => exact answers_next ⟨trivial, rfl, rfl, rfl, trivial, trivial⟩
  | lsr o =>
    cases o with
    | acc | mem => exact answers_next (setShift_shiftLsr_holds s.p _ _)
  | alr b1 => exact answers_next (setShift_shiftLsr_holds s.p _ _)
  | cmp o | cpx o | cpy o => exact answers_next (compare_holds (onlyReads_afterOperand s o).p _ _)
  | bit m => exact answers_next ⟨rfl, rfl, rfl, rfl, trivial, rfl⟩
  | clc | sec | cld | sed | cli | sei | clv | brk | plp | rti =>
    exact answers_next ⟨rfl, rfl, rfl, rfl, rfl, rfl⟩
  | bpl off | bmi off | bvc off | bvs off | bcc off | bcs off | bne off | beq off =>
    exact answers_next (kept_holds (by rw [State.branch_eq]))
  | sta m | stx m | sty m => exact answers_next (kept_holds (onlyReads_afterEa s m).p)
  | nopUndoc op o => exact answers_next (kept_holds (onlyReads_afterNopOperand s o).p)
  | jmp o => exact answers_next (kept_holds (onlyReads_afterJmpTarget s o).p)
  | pha | php | jsr | rts => exact answers_next (kept_holds (by simp))
  | txs | nop | jam => exact answers_next (kept_holds rfl)
  | unlisted op => exact answers_refused _ _

/-- Settles O53, line by line of the table. -/
theorem flagsChangeAsTabled : Obligations.FlagsChangeAsTabled := exec_flags

/-! ### The status byte (R15, R16) -/

/-- Appending a bit doubles the number and adds the bit. -/
theorem toNat_append_ofBool {n : Nat} (v : BitVec n) (b : Bool) :
    (v ++ BitVec.ofBool b).toNat = 2 * v.toNat + b.toNat := by
  rw [BitVec.toNat_append, ← Nat.shiftLeft_add_eq_or_of_lt (BitVec.isLt _), BitVec.toNat_ofBool, Nat.shiftLeft_eq]
  omega

theorem toNat_toByte (p : Flags) (b : Bool) : (p.toByte b).toNat =
    128 * p.n.toNat + 64 * p.v.toNat + 32 + 16 * b.toNat + 8 * p.d.toNat + 4 * p.i.toNat +
      2 * p.z.toNat + p.c.toNat := by
  have h1 : (1#1) = BitVec.ofBool true := rfl
  simp only [Flags.toByte, h1, toNat_append_ofBool, BitVec.toNat_ofBool, Bool.toNat_true]
  omega

/-- Bits 5 and 4 are pushed as 1, the six others are those pulled. -/
theorem toByte_ofByte (v : Byte) : (Flags.ofByte v).toByte true = v ||| 0x30 := by
  apply BitVec.eq_of_getLsbD_eq
  intro k hk
  unfold Flags.toByte
  interval_cases k <;> simp only [Flags.ofByte, BitVec.getLsbD_append] <;> simp

/-- Settles O13: the two directions of the status byte, and `SetP` after `PByte`. -/
theorem statusByteLayout : Obligations.StatusByteLayout :=
  ⟨toNat_toByte, fun _ => rfl, Flags.ofByte_toByte, toByte_ofByte⟩

/-! ### Reset (R20, R220) -/

/-- Settles O57: the two reads of the vector change no byte of memory. -/
theorem resetStepEffect : Obligations.ResetStepEffect := by
  intro s r
  have hmem : (s.resetStep r).bus.mem = s.bus.mem := s.afterPair_mem _ _
  exact ⟨rfl, sameMemory_of_mem (s.afterPair_regions _ _) hmem, hmem⟩

/-- Settles O5, by evaluation of the reset step at the one state. -/
theorem resetStateFitsTheResetStep : Obligations.ResetStateFitsTheResetStep :=
  ⟨reset_mem_wf, rfl, rfl, rfl, rfl, rfl⟩

/-! ### JAM (R180) -/

/-- Settles O45: the cell of a JAM byte takes no operand, and `execJam` sets one field. -/
theorem jamSetsJammedOnly : Obligations.JamSetsJammedOnly := by
  intro op hop
  have hdecode : decodesTo [op] (.jam op) :=
    ⟨rfl, decode_of_takes (by rw [opcodeRow_jam hop]; exact .f1 _)⟩
  exact ⟨hdecode, fun s => ⟨⟨rfl, rfl, fun _ _ => rfl⟩, rfl⟩⟩

/-! ### PHP and PLP (R152, R153) -/

theorem pull_bus_of_ram {s : State} (h : ramAt s (stackAddr (s.sp + 1))) : s.pull.bus = s.bus := by
  have hmem : s.bus.locationAt (busAddr (stackAddr (s.sp + 1))) ≠ .device := by rw [h]; exact nofun
  rw [State.pull_bus, Bus.read_of_memory hmem]

/-- Settles O39: the byte pulled is the byte pushed, and `SetP` undoes `PByte`. -/
theorem pullStatusUndoesPushStatus : Obligations.PullStatusUndoesPushStatus := by
  intro s q w hstack
  have hpulled : (s.push (s.p.toByte true)).pulled = s.p.toByte true := State.pulled_push (hstack s.sp) _
  refine ⟨_, _, rfl, rfl, ?_, ?_, ?_, ?_, ?_⟩
  · exact (congrArg Flags.ofByte hpulled).trans (Flags.ofByte_toByte s.p true)
  · simp
  · simp [sameRegisters]
  · simp [sameMode]
  · rw [State.advance_bus, State.setFlags_bus]
    exact pull_bus_of_ram (by simpa [ramAt] using hstack s.sp)

end Sys2Proof.AgentState
end

section
/-! The statements of family 20_memory: the canonical form of memory (O8), the aliases of a location (O10), the stack
(O11, O12) and the returns that rest on it (O42, O44), the shifts of a byte of memory (O32), and the accesses of a step
(O50, O56). -/

namespace Sys2Proof.BusAndStack

open Sys2Proof.Machine Sys2Proof.Safety

/-! ### The canonical form of memory (R38)

A canonical memory lists exactly the addresses that do not read as an unlisted one, in rising order. -/

/-- The cell stands at a lower address than the other. -/
def Below (c d : Host.Cell) : Prop := c.1 < d.1

theorem le_of_mem_of_risingFrom {cell : Host.Cell} :
    ∀ {low : Nat} {m : Memory}, Memory.risingFrom low m = true → cell ∈ m → low ≤ cell.1
  | low, (k, v) :: m, h, hc => by
    obtain ⟨hlow, hm⟩ : low ≤ k ∧ Memory.risingFrom (k + 1) m = true := by simpa [Memory.risingFrom] using h
    rcases List.mem_cons.mp hc with rfl | hc
    · exact hlow
    · have := le_of_mem_of_risingFrom hm hc
      omega

theorem pairwise_below_of_risingFrom :
    ∀ {low : Nat} {m : Memory}, Memory.risingFrom low m = true → m.Pairwise Below
  | _, [], _ => .nil
  | low, (k, v) :: m, h => by
    obtain ⟨-, hm⟩ : low ≤ k ∧ Memory.risingFrom (k + 1) m = true := by simpa [Memory.risingFrom] using h
    exact .cons (fun _ hc => le_of_mem_of_risingFrom hm hc) (pairwise_below_of_risingFrom hm)

/-- Strictly rising lists are determined by their members. -/
theorem eq_of_mem_iff_of_pairwise_below {m n : Memory} (hm : m.Pairwise Below) (hn : n.Pairwise Below)
    (h : ∀ cell, cell ∈ m ↔ cell ∈ n) : m = n := by
  have : Std.Irrefl Below := ⟨fun c => Nat.lt_irrefl c.1⟩
  have : Std.Antisymm Below := ⟨fun _ _ hcd hdc => absurd hcd (Nat.lt_asymm hdc)⟩
  exact hm.eq_of_mem_iff hn h

theorem read_of_mem {k : Nat} {v : Byte} :
    ∀ {m : Memory}, m.Pairwise Below → (k, v) ∈ m → m.read k = v
  | (j, w) :: m, hm, hc => by
    obtain ⟨hbelow, hm⟩ := List.pairwise_cons.mp hm
    rcases List.mem_cons.mp hc with hc | hc
    · obtain ⟨rfl, rfl⟩ := Prod.mk.inj hc
      simp [Memory.read]
    · have hjk : j < k := hbelow _ hc
      simp [Memory.read, hjk.ne, read_of_mem hm hc]

theorem mem_of_read_ne {k : Nat} : ∀ {m : Memory}, m.read k ≠ Config.unlistedByte → (k, m.read k) ∈ m
  | [], h => absurd rfl h
  | (j, w) :: m, h => by
    by_cases hj : j = k
    · simp [Memory.read, hj]
    · simp only [Memory.read, hj, if_false] at h ⊢
      exact .tail _ (mem_of_read_ne h)

/-- The cells of a canonical memory are the addresses that read as a listed byte, with what they read. -/
theorem mem_iff_of_wf {m : Memory} (h : m.wf = true) (k : Nat) (v : Byte) :
    (k, v) ∈ m ↔ k < busSize ∧ v ≠ Config.unlistedByte ∧ m.read k = v := by
  obtain ⟨hrising, hcells⟩ := (Memory.wf_iff m).mp h
  constructor
  · intro hc
    obtain ⟨hk, hv⟩ := hcells _ hc
    exact ⟨hk, hv, read_of_mem (pairwise_below_of_risingFrom hrising) hc⟩
  · rintro ⟨-, hv, rfl⟩
    exact mem_of_read_ne hv

/-- Settles O8: the two memories have the same cells, and both list them in rising order. -/
theorem canonicalMemoriesReadingAlikeAreEqual : Obligations.CanonicalMemoriesReadingAlikeAreEqual := by
  intro m n hm hn hread
  refine eq_of_mem_iff_of_pairwise_below (pairwise_below_of_risingFrom ((Memory.wf_iff m).mp hm).1)
    (pairwise_below_of_risingFrom ((Memory.wf_iff n).mp hn).1) fun ⟨k, v⟩ => ?_
  rw [mem_iff_of_wf hm, mem_iff_of_wf hn]
  exact and_congr_right fun hk => by rw [hread k hk]

/-! ### The aliases of a location (R31) -/

theorem busAddr_eq_mod (addr : Word) : busAddr addr = addr.toNat % 8192 := rfl

theorem busAddr_add_alias (addr : Word) (k : Nat) :
    busAddr (addr + BitVec.ofNat 16 (8192 * k)) = busAddr addr := by
  simp only [busAddr_eq_mod, BitVec.toNat_add, BitVec.toNat_ofNat]
  omega

theorem busAddr_eq_iff (addr b : Word) :
    busAddr addr = busAddr b ↔ ∃ k : Nat, k < 8 ∧ b = addr + BitVec.ofNat 16 (8192 * k) := by
  constructor
  · intro h
    rw [busAddr_eq_mod, busAddr_eq_mod] at h
    refine ⟨(b.toNat / 8192 + 8 - addr.toNat / 8192) % 8, Nat.mod_lt _ (by decide), BitVec.eq_of_toNat_eq ?_⟩
    rw [BitVec.toNat_add, BitVec.toNat_ofNat]
    omega
  · rintro ⟨k, -, rfl⟩
    exact (busAddr_add_alias addr k).symm

theorem afterRead_of_busAddr_eq {a b : Word} (h : busAddr a = busAddr b) (s : State) :
    s.afterRead a = s.afterRead b := by
  simp only [State.afterRead, h]

theorem memWrite_of_busAddr_eq {a b : Word} (h : busAddr a = busAddr b) (s : State) (v : Byte) :
    s.memWrite a v = s.memWrite b v := by
  simp only [State.memWrite, h]

/-- Settles O10: an access sees the bus address alone. -/
theorem eightAliasesAreOneLocation : Obligations.EightAliasesAreOneLocation := by
  refine ⟨fun s addr v => ⟨rfl, rfl, rfl, rfl⟩, fun s addr v k _ => ?_, busAddr_eq_iff, fun s => ⟨?_, ?_⟩⟩
  · have h := busAddr_add_alias addr k
    exact ⟨Scope.memRead_of_busAddr_eq h s, afterRead_of_busAddr_eq h s, memWrite_of_busAddr_eq h s v⟩
  · exact Scope.memRead_of_busAddr_eq rfl s
  · exact Scope.memRead_of_busAddr_eq rfl s

/-! ### Storing one byte (R35, R36) -/

theorem sameMemory_refl (s : State) : sameMemory s s := ⟨rfl, fun _ _ => rfl⟩

/-- One write, after reads alone, stores one byte. -/
theorem storesOnly_of_write {s u t : State} {addr : Word} {v : Byte} (h : sameMemory s u)
    (hbus : t.bus = (u.memWrite addr v).bus) : storesOnly s t addr v := by
  obtain ⟨hregions, hread⟩ := h
  have hloc (a : Nat) : u.bus.locationAt a = s.bus.locationAt a := Bus.locationAt_congr hregions a
  refine ⟨?_, fun hram => ?_, fun b hb hother => ?_⟩
  · rw [hbus, State.memWrite_bus, Bus.write_regions, hregions]
  · rw [State.memRead_congr hbus]
    exact State.memRead_memWrite_same ((hloc _).trans hram) v
  · rw [State.memRead_congr hbus, ← hread b hb]
    refine State.memRead_memWrite_other (by rwa [hloc]) ?_ v
    rw [hloc]
    exact hother.imp_left Ne.symm

/-- Settles O11: a push is one write and a pull one read, at `0x01:S` in page one. -/
theorem pushAndPullWrapInPageOne : Obligations.PushAndPullWrapInPageOne := by
  refine ⟨fun sp => ⟨?_, busAddr_stackAddr sp⟩, fun s v => ⟨?_, rfl, rfl, rfl⟩, fun s v hsp => ?_,
    fun s hsp => ?_⟩
  · simp [stackAddr, toNat_hilo, Config.stackPage]
  · exact storesOnly_of_write (sameMemory_refl s) rfl
  · rw [State.push, hsp]
    rfl
  · rw [State.pull_sp, State.pulled, hsp]
    exact ⟨rfl, rfl⟩

/-! ### The shifts of a byte of memory (R103 to R106) -/

/-- Reading the byte at `EA` and writing one back stores that byte alone. -/
theorem storesOnly_updateAt {s t : State} {m : EaMode} {v : Byte} (hbus : t.bus = (s.updateAt m v).bus) :
    storesOnly s t (s.ea m) v :=
  storesOnly_of_write (AgentState.sameMemory_of_mem (s.afterByteAt_regions m) (s.afterByteAt_mem m)) hbus

/-- The four shifts differ in the function alone. -/
theorem updatesAt_shift (s : State) (f : Byte → Bool → ShiftResult) (m : EaMode) :
    updatesAt s ((s.shift f (.mem m)).advance m.len) m (f (s.byteAt m) s.p.c).r s.a
      (s.p.setShift (f (s.byteAt m) s.p.c)) := by
  rw [AgentState.shift_mem_eq]
  exact ⟨storesOnly_updateAt rfl, rfl, rfl, rfl, rfl, rfl, rfl, rfl, rfl, rfl⟩

/-- Settles O32: each of the four is the shared operation with its own function. -/
theorem shiftsOfMemory : Obligations.ShiftsOfMemory := fun m s =>
  ⟨⟨_, rfl, updatesAt_shift s shiftAsl m⟩, ⟨_, rfl, updatesAt_shift s shiftLsr m⟩,
    ⟨_, rfl, updatesAt_shift s shiftRol m⟩, ⟨_, rfl, updatesAt_shift s shiftRor m⟩⟩

/-! ### Last in, first out (R36, R37)

Pulls see S and the stack page alone, so what the pushes left is pulled in any state that shares them. -/

/-- The stack page of `t` is RAM, and S and the bytes of the page are those of `s`. -/
structure SharesStack (s t : State) : Prop where
  ram : stackIsRam t
  sp : t.sp = s.sp
  read : ∀ q : Byte, t.memRead (stackAddr q) = s.memRead (stackAddr q)

theorem sharesStack_refl {s : State} (h : stackIsRam s) : SharesStack s s := ⟨h, rfl, fun _ => rfl⟩

theorem not_deviceAt_of_ramAt {s : State} {addr : Word} (h : ramAt s addr) : ¬ deviceAt s addr := by
  rw [deviceAt, h]
  exact nofun

theorem stackIsRam_of_regions {s t : State} (h : t.bus.regions = s.bus.regions) (hs : stackIsRam s) :
    stackIsRam t := fun q => (Bus.locationAt_congr h _).trans (hs q)

theorem stackIsRam_push {s : State} (h : stackIsRam s) (v : Byte) : stackIsRam (s.push v) :=
  stackIsRam_of_regions (by simp) h

theorem stackIsRam_pushAll (vs : List Byte) : ∀ {s : State}, stackIsRam s → stackIsRam (pushAll vs s) := by
  induction vs with
  | nil => exact id
  | cons v vs ih => exact fun h => ih (stackIsRam_push h v)

namespace SharesStack

variable {s t : State} (h : SharesStack s t)
include h

/-- The core beside S is free. -/
theorem congr {u : State} (hbus : u.bus = t.bus) (hsp : u.sp = t.sp) : SharesStack s u where
  ram := stackIsRam_of_regions (by rw [hbus]) h.ram
  sp := hsp.trans h.sp
  read q := (State.memRead_congr hbus _).trans (h.read q)

theorem afterRead (addr : Word) : SharesStack s (t.afterRead addr) where
  ram := stackIsRam_of_regions (by simp) h.ram
  sp := h.sp
  read q := (State.memRead_afterRead (not_deviceAt_of_ramAt (h.ram q)) addr).trans (h.read q)

theorem afterPair (lo hi : Word) : SharesStack s (t.afterPair lo hi) := (h.afterRead lo).afterRead hi

end SharesStack

/-- A pull from RAM changes S alone. -/
theorem pull_of_stackIsRam {s : State} (h : stackIsRam s) : s.pull = { s with sp := s.sp + 1 } :=
  congrArg (fun b => { s with sp := s.sp + 1, bus := b }) (AgentState.pull_bus_of_ram (h _))

/-- Pushes leave the bytes of the page that S has not come down to. -/
theorem memRead_pushAll_above {q : Byte} (vs : List Byte) : ∀ {s : State}, stackIsRam s →
    vs.length ≤ (s.sp - q).toNat → (pushAll vs s).memRead (stackAddr q) = s.memRead (stackAddr q) := by
  induction vs with
  | nil => exact fun _ _ => rfl
  | cons v vs ih =>
    intro s hram hlen
    rw [List.length_cons] at hlen
    have hne : s.sp ≠ q := by
      rintro rfl
      simp at hlen
    have hrest : vs.length ≤ ((s.push v).sp - q).toNat := by
      rw [State.push_sp]
      bv_omega
    rw [pushAll, ih (stackIsRam_push hram v) hrest]
    refine State.memRead_push_other (not_deviceAt_of_ramAt (hram q)) ?_ v
    rwa [ne_eq, busAddr_stackAddr_inj]

/-- The last of the pulls, taken apart. -/
theorem pullAll_succ (n : Nat) : ∀ s : State,
    pullAll (n + 1) s = ((pullAll n s).1 ++ [(pullAll n s).2.pulled], (pullAll n s).2.pull) := by
  induction n with
  | zero => exact fun _ => rfl
  | succ n ih =>
    intro s
    rw [pullAll, ih s.pull]
    rfl

/-- The pushed bytes are pulled in the opposite order, and the pulls change S alone. -/
theorem pullAll_of_sharesStack (vs : List Byte) : ∀ {s t : State}, stackIsRam s → vs.length ≤ 256 →
    SharesStack (pushAll vs s) t → pullAll vs.length t = (vs.reverse, { t with sp := s.sp }) := by
  induction vs with
  | nil =>
    intro s t _ _ ht
    have hsp : t.sp = s.sp := ht.sp
    rw [← hsp]
    rfl
  | cons v vs ih =>
    intro s t hram hlen ht
    rw [List.length_cons] at hlen
    have hs := stackIsRam_push hram v
    have hfirst : t.memRead (stackAddr s.sp) = v := by
      have habove : vs.length ≤ ((s.push v).sp - s.sp).toNat := by
        rw [State.push_sp]
        bv_omega
      rw [ht.read, pushAll, memRead_pushAll_above vs hs habove, State.memRead_push_same (hram _)]
    have hback : (s.push v).sp + 1 = s.sp := by simp
    let u : State := { t with sp := (s.push v).sp }
    have hu : pullAll vs.length t = (vs.reverse, u) := ih hs (by omega) ht
    have hpulled : u.pulled = v := by rw [← hfirst, ← hback]; rfl
    have hpull : u.pull = { t with sp := s.sp } := by
      rw [← hback]
      exact pull_of_stackIsRam (stackIsRam_of_regions rfl ht.ram)
    rw [List.length_cons, pullAll_succ, hu, List.reverse_cons, hpulled, hpull]

/-- Settles O12: the state after the pushes shares its own stack. -/
theorem stackIsLastInFirstOut : Obligations.StackIsLastInFirstOut := by
  intro vs s hram hlen
  have h := pullAll_of_sharesStack vs hram hlen (sharesStack_refl (stackIsRam_pushAll vs hram))
  exact ⟨congrArg Prod.fst h, congrArg Prod.snd h⟩

/-! ### Returning (R121, R123, R207) -/

/-- RTS pulls a pushed word again, in any state that shares the stack. -/
theorem exec_rts_of_sharesStack {s t : State} {w : Word} (hram : stackIsRam s) (ht : SharesStack (s.push16 w) t) :
    exec .rts t = .next { t with sp := s.sp, pc := w + 1 } := by
  have h : pullAll 2 t = ([loByte w, hiByte w], { t with sp := s.sp }) :=
    pullAll_of_sharesStack [hiByte w, loByte w] hram (by simp) ht
  obtain ⟨⟨hlo, hhi⟩, hstate⟩ :
      (t.pulled = loByte w ∧ t.pull.pulled = hiByte w) ∧ t.pull16 = { t with sp := s.sp } := by
    simpa [pullAll, State.pull16] using h
  have hword : t.pulled16 = w := by rw [State.pulled16, hlo, hhi, hilo_hiByte_loByte]
  have hexec : exec .rts t = .next (t.pull16.jump (t.pulled16 + 1)) := rfl
  rw [hexec, hstate, hword]
  rfl

/-- RTI pulls a pushed word and status byte again, in any state that shares the stack. -/
theorem exec_rti_of_sharesStack {s t : State} {w : Word} {v : Byte} (hram : stackIsRam s)
    (ht : SharesStack ((s.push16 w).push v) t) :
    exec .rti t = .next { t with sp := s.sp, p := Flags.ofByte v, pc := w } := by
  have h : pullAll 3 t = ([v, loByte w, hiByte w], { t with sp := s.sp }) :=
    pullAll_of_sharesStack [hiByte w, loByte w, v] hram (by simp) ht
  obtain ⟨⟨hv, hlo, hhi⟩, hstate⟩ :
      (t.pulled = v ∧ t.pull.pulled = loByte w ∧ t.pull.pull.pulled = hiByte w) ∧
        t.pull.pull16 = { t with sp := s.sp } := by
    simpa [pullAll, State.pull16] using h
  have hword : t.pull.pulled16 = w := by rw [State.pulled16, hlo, hhi, hilo_hiByte_loByte]
  have hexec : exec .rti t = .next { t.pull.pull16 with p := Flags.ofByte t.pulled, pc := t.pull.pulled16 } := rfl
  rw [hexec, hstate, hv, hword]

/-- Trap entry reads the vector after its pushes, and the reads leave the stack page. -/
theorem sharesStack_enterTrap {s : State} (hram : stackIsRam s) (ret : Word) (b : Bool) (vector : Word) :
    SharesStack ((s.push16 ret).push (s.p.toByte b)) (s.enterTrap ret b vector) := by
  have hsaved : stackIsRam ((s.push16 ret).push (s.p.toByte b)) :=
    stackIsRam_push (stackIsRam_push (stackIsRam_push hram _) _) _
  exact ((sharesStack_refl hsaved).afterPair vector (vector + 1)).congr (s.enterTrap_bus ret b vector)
    (s.enterTrap_sp ret b vector)

/-- Settles O42: RTI pulls what BRK pushed, and `SetP` undoes `PByte`. -/
theorem returnAfterBreakResumesPastTheSignature : Obligations.ReturnAfterBreakResumesPastTheSignature := by
  intro s q w hram
  have hbrk : SharesStack ((s.push16 (s.pc + 2)).push (s.p.toByte true)) s.raiseBrk :=
    sharesStack_enterTrap hram (s.pc + 2) true Config.vecIrqBrk
  have hshares : SharesStack _ { s.raiseBrk with p := q, pc := w } := hbrk.congr rfl rfl
  refine ⟨s.raiseBrk, _, rfl, exec_rti_of_sharesStack hram hshares, rfl, Flags.ofByte_toByte s.p true, ?_, ?_, rfl⟩
  · simp [sameRegisters, State.raiseBrk]
  · simp [sameMode, State.raiseBrk]

/-- Settles O44: RTS pulls what JSR pushed; between them only the high byte of the target is read. -/
theorem returnFromSubroutineResumesAfterTheCall : Obligations.ReturnFromSubroutineResumesAfterTheCall := by
  intro s target w q hram
  let called : State := (s.push16 (s.pc + 2)).afterRead (s.pc + 2)
  have hpushed : stackIsRam (s.push16 (s.pc + 2)) := stackIsRam_push (stackIsRam_push hram _) _
  have hcalled : SharesStack (s.push16 (s.pc + 2)) called := (sharesStack_refl hpushed).afterRead (s.pc + 2)
  have hshares : SharesStack _ { called with p := q, pc := w } := hcalled.congr rfl rfl
  refine ⟨_, _, rfl, exec_rts_of_sharesStack hram hshares, ?_, rfl, ?_, ⟨rfl, rfl⟩, rfl⟩
  · exact BitVec.add_assoc s.pc 2 1
  · simp [sameRegisters]

/-! ### The accesses of an instruction (R39, R40) -/

theorem replay_shiftAccesses (s : State) (f : Byte → Bool → ShiftResult) (o : RmwOperand) :
    s.bus.replay (s.shiftAccesses f o) = (s.shift f o).bus := by
  cases o with
  | acc => rfl
  | mem m => exact s.replay_modifyAccesses m fun v => (f v s.p.c).r

/-- Each list of accesses is that of the shared operations that the meaning is made of. -/
theorem exec_bus (i : Instr) (s : State) :
    AgentState.Answers (fun t => t.bus = s.bus.replay (s.bodyAccesses i)) (exec i s) := by
  cases i with
  | lda o | ldx o | ldy o | adc o | sbc o | and o | ora o | eor o | cmp o | cpx o | cpy o =>
    exact AgentState.answers_next (s.replay_operandAccesses o).symm
  | bit m => exact AgentState.answers_next (s.replay_readAccesses m).symm
  | sta m | stx m | sty m => exact AgentState.answers_next (s.replay_storeAccesses m _).symm
  | asl o | lsr o | rol o | ror o => exact AgentState.answers_next (replay_shiftAccesses s _ o).symm
  | slo m | rla m | sre m | rra m => exact AgentState.answers_next (replay_shiftAccesses s _ (.mem m)).symm
  | inc m => exact AgentState.answers_next (s.replay_modifyAccesses m (· + 1)).symm
  | dec m => exact AgentState.answers_next (s.replay_modifyAccesses m (· - 1)).symm
  | nopUndoc op o =>
    cases o with
    | impl => exact AgentState.answers_next rfl
    | mem m => exact AgentState.answers_next (s.replay_readAccesses m).symm
  | jmp o => cases o with | abs | ind => exact AgentState.answers_next rfl
  | bpl | bmi | bvc | bvs | bcc | bcs | bne | beq =>
    exact AgentState.answers_next (by rw [State.branch_eq]; rfl)
  | arr b1 => exact AgentState.execArr_answers rfl
  | unlisted op => exact AgentState.answers_refused _ _
  | brk | rti | jsr | rts | pha | php | pla | plp => exact AgentState.answers_next rfl
  | clc | sec | cli | sei | clv | cld | sed | tax | txa | tay | tya | tsx | txs => exact AgentState.answers_next rfl
  | inx | iny | dex | dey | nop | jam | anc | alr => exact AgentState.answers_next rfl

theorem step_bus (s : State) : AgentState.Answers (fun t => t.bus = s.bus.replay s.accesses) (step s) := by
  intro t ht
  unfold step at ht
  split at ht
  · exact nomatch ht
  · split at ht
    · rw [State.accesses, Bus.replay_append, State.replay_fetchAccesses]
      exact exec_bus _ _ t ht
    · exact nomatch ht

theorem afterFetch_eq_replay (s : State) :
    s.afterFetch = { s with bus := s.bus.replay (s.fetchAccesses s.fetch) } := by
  rw [State.replay_fetchAccesses, ← State.afterFetch_eq]

/-- Settles O56: the body, the step, and the reads of the instruction's bytes. -/
theorem accessesReplayTheInstruction : Obligations.AccessesReplayTheInstruction := by
  refine ⟨fun i s => exec_bus i s, step_bus, fun s => ?_⟩
  intro fetched
  have hfetched : s.fetchAccesses s.fetch = fetched := by
    rw [State.fetchAccesses, State.fetchAddrs, List.map_map]
    rfl
  rw [State.accesses, afterFetch_eq_replay, hfetched]

/-! ### The reads of the instruction's bytes (R50, R53) -/

theorem fetchLength_eq (i : Instr) : fetchLength i = match i with | .jsr _ => 2 | _ => i.len := by
  cases i <;> rfl

theorem eaMode_len_cases (m : EaMode) : m.len = 2 ∨ m.len = 3 := by
  cases m with
  | zpg | zpgX | zpgY | xInd | indY => exact .inl rfl
  | abs | absX | absY => exact .inr rfl

theorem fetchLength_cases (i : Instr) : fetchLength i = 1 ∨ fetchLength i = 2 ∨ fetchLength i = 3 := by
  cases i with
  | lda o | ldx o | ldy o | adc o | sbc o | and o | ora o | eor o | cmp o | cpx o | cpy o =>
    cases o with
    | imm => exact .inr (.inl rfl)
    | mem m => exact .inr (eaMode_len_cases m)
  | sta m | stx m | sty m | bit m | inc m | dec m | slo m | rla m | sre m | rra m =>
    exact .inr (eaMode_len_cases m)
  | asl o | lsr o | rol o | ror o =>
    cases o with
    | acc => exact .inl rfl
    | mem m => exact .inr (eaMode_len_cases m)
  | nopUndoc op o =>
    cases o with
    | impl => exact .inl rfl
    | mem m => exact .inr (eaMode_len_cases m)
  | bpl | bmi | bvc | bvs | bcc | bcs | bne | beq | anc | alr | arr | jsr => exact .inr (.inl rfl)
  | jmp => exact .inr (.inr rfl)
  | brk | rti | rts | clc | sec | cli | sei | clv | cld | sed | tax | txa | tay | tya | tsx | txs | pha | pla | php
  | plp | inx | iny | dex | dey | nop | jam | unlisted => exact .inl rfl

/-- The state after the first `n` of the reads at PC, PC + 1 and PC + 2; all three for an `n` past 2. -/
def afterReadsAtPc (s : State) : Nat → State
  | 1 => s.afterRead s.pc
  | 2 => (s.afterRead s.pc).afterRead (s.pc + 1)
  | _ => ((s.afterRead s.pc).afterRead (s.pc + 1)).afterRead (s.pc + 2)

/-- A step reads one, two or three bytes, at PC and after it. -/
theorem afterFetch_eq_afterReadsAtPc (s : State) : s.afterFetch = afterReadsAtPc s (fetchLength s.fetch) := by
  rw [State.afterFetch, State.fetchAddrs]
  rcases fetchLength_cases s.fetch with h | h | h <;> rw [h] <;>
    simp [List.range_succ, State.afterReads, afterReadsAtPc]

theorem afterReadsAtPc_of_memory {s : State} (h0 : ¬ deviceAt s s.pc) (h1 : ¬ deviceAt s (s.pc + 1))
    (h2 : ¬ deviceAt s (s.pc + 2)) (n : Nat) : afterReadsAtPc s n = s := by
  unfold afterReadsAtPc
  split <;> simp only [State.afterRead_of_memory h0, State.afterRead_of_memory h1, State.afterRead_of_memory h2]

/-- The bytes at PC decode to the instruction fetched. -/
theorem fetch_of_decode {s : State} {i : Instr} {rest : List Byte} (h : decode s.bytesAtPc = .ok (i, rest)) :
    s.fetch = i := by
  obtain ⟨rest', hfetch⟩ := s.decode_bytesAtPc
  exact (Prod.mk.inj (Except.ok.inj (hfetch.symm.trans h))).1

/-- Settles O50: the instruction decoded is the one fetched, and the reads are those of the fetch. -/
theorem stepRunsTheDecodedInstruction : Obligations.StepRunsTheDecodedInstruction := by
  intro s i rest one two read hj htier hdecode
  have hfetch : s.fetch = i := fetch_of_decode hdecode
  have hreads : read = afterReadsAtPc s (fetchLength i) := by
    rw [fetchLength_eq]
    rfl
  have hread : read = s.afterFetch := by rw [hreads, afterFetch_eq_afterReadsAtPc, hfetch]
  have hadm : s.admits s.fetch = true := by
    rw [hfetch, AgentState.admits_iff]
    exact htier
  refine ⟨?_, ?_, fun h0 h1 h2 => ?_⟩
  · rw [hread, AgentState.step_of_admits hj hadm, hfetch]
  · rw [hread]
    exact s.afterFetch_eq
  · rw [hreads, afterReadsAtPc_of_memory h0 h1 h2]

end Sys2Proof.BusAndStack
end

section
/-! The statements of family 30_encoding: the decoder and the encoder (O1, O2, O3, O4), the addressing modes (O14, O15,
O16, O17) and JMP (O18). -/

namespace Sys2Proof.Encoding

open Sys2Proof.Machine Sys2Proof.Safety

/-! ### Decoding what the encoder wrote (R51, R53, R67) -/

/-- Settles O1, by the cell of the opcode map that each well-formed instruction has. -/
theorem decodeOfEncode : Obligations.DecodeOfEncode := fun _ rest hwf => AgentState.decode_encode hwf rest

/-- What the encoder writes for a well-formed instruction decodes to it. -/
theorem decodesTo_of_encode {bytes : List Byte} {i : Instr} (hwf : i.wf = true) (h : encode i = bytes) :
    decodesTo bytes i := by
  subst h
  exact ⟨(AgentState.length_encode hwf).symm, AgentState.decode_encode hwf⟩

/-! ### The cells of the opcode map (R51, R67)

Each cell holds a well-formed instruction that the encoder gives the opcode byte of the cell, so any bytes decode to
an instruction whose encoding they are. -/

/-- The instruction of a cell, with `b1` for its operand byte or `w` for its operand address. -/
def fillRow (b1 : Byte) (w : Word) : Row → Instr
  | .f1 i => i
  | .f2 k => k b1
  | .f3 k => k w

/-- The operand bytes that the format of a cell takes, an address low byte first. -/
def rowOperands (b1 : Byte) (w : Word) : Row → List Byte
  | .f1 _ => []
  | .f2 _ => [b1]
  | .f3 _ => [loByte w, hiByte w]

/-- How many bytes the format of a cell takes, the opcode byte included. -/
def rowLength : Row → Nat
  | .f1 _ => 1
  | .f2 _ => 2
  | .f3 _ => 3

theorem rowLength_bounds (row : Row) : 1 ≤ rowLength row ∧ rowLength row ≤ 3 := by
  cases row <;> simp [rowLength]

theorem cons_rowOperands (op b1 b2 : Byte) (rest : List Byte) (row : Row) :
    op :: rowOperands b1 (hilo b2 b1) row = (op :: b1 :: b2 :: rest).take (rowLength row) := by
  cases row with
  | f1 | f2 => rfl
  | f3 => simp [rowOperands, rowLength]

/-- Whatever operand it is given, the cell's instruction is well formed, and its encoding is `op` and that operand. -/
def EncodedBy (op : Byte) (row : Row) : Prop :=
  ∀ (b1 : Byte) (w : Word), (fillRow b1 w row).wf = true ∧ encode (fillRow b1 w row) = op :: rowOperands b1 w row

/-- The 256 cells of the map, one by one: each is encoded by the number of its place. -/
theorem encodedBy_opcodeRow_ofNat {n : Nat} (hn : n < 256) :
    EncodedBy (BitVec.ofNat 8 n) (opcodeRow (BitVec.ofNat 8 n)) := by
  interval_cases n <;> exact fun _ _ => ⟨rfl, rfl⟩

theorem encodedBy_opcodeRow (op : Byte) : EncodedBy op (opcodeRow op) := by
  simpa using encodedBy_opcodeRow_ofNat op.isLt

/-- The instruction that an opcode byte and the two bytes after it select; the format says how many of the two count. -/
def selected (op b1 b2 : Byte) : Instr := fillRow b1 (hilo b2 b1) (opcodeRow op)

theorem wf_selected (op b1 b2 : Byte) : (selected op b1 b2).wf = true := (encodedBy_opcodeRow op b1 _).1

theorem encode_selected (op b1 b2 : Byte) (rest : List Byte) :
    encode (selected op b1 b2) = (op :: b1 :: b2 :: rest).take (rowLength (opcodeRow op)) :=
  (encodedBy_opcodeRow op b1 _).2.trans (cons_rowOperands op b1 b2 rest _)

/-- Any opcode byte with the operand bytes its format takes decodes to the instruction that they select. -/
theorem decodesTo_selected (op b1 b2 : Byte) :
    decodesTo ([op, b1, b2].take (rowLength (opcodeRow op))) (selected op b1 b2) :=
  decodesTo_of_encode (wf_selected op b1 b2) (encode_selected op b1 b2 [])

/-- Settles O2: the length is that of the cell's format. -/
theorem everyByteDecodesWithItsLength : Obligations.EveryByteDecodesWithItsLength := by
  intro op
  obtain ⟨hpos, hle⟩ := rowLength_bounds (opcodeRow op)
  refine ⟨rowLength (opcodeRow op), hpos, hle, fun b1 b2 rest => ⟨selected op b1 b2, ?_, ?_, ?_, ?_⟩⟩
  · obtain ⟨n, hn⟩ : ∃ n, rowLength (opcodeRow op) = n + 1 := ⟨_, (Nat.sub_add_cancel hpos).symm⟩
    have hbytes : op :: b1 :: b2 :: rest = encode (selected op b1 b2) ++ (b1 :: b2 :: rest).drop n := by
      rw [encode_selected op b1 b2 rest, hn, List.take_succ_cons, List.cons_append, List.take_append_drop]
    rw [hbytes, AgentState.decode_encode (wf_selected op b1 b2), hn, Nat.add_sub_cancel]
  · exact wf_selected op b1 b2
  · rw [← AgentState.length_encode (wf_selected op b1 b2), encode_selected op b1 b2 [], List.length_take]
    exact Nat.min_eq_left hle
  · exact encode_selected op b1 b2 rest

/-- Settles O3: the instruction of each word is encoded by it. -/
theorem sampleWordsDecode : Obligations.SampleWordsDecode := by
  refine ⟨?_, ?_, ?_, ?_, ?_, ?_, ?_, ?_, ?_, ?_, ?_, ?_, ?_, ?_, ?_, ?_, ?_⟩
  all_goals exact decodesTo_of_encode rfl rfl

/-- Settles O4: each cell of R70 selects the instruction named there, with every operand. -/
theorem correctedCellsDecode : Obligations.CorrectedCellsDecode := fun l h =>
  ⟨decodesTo_selected 0xBE l h, decodesTo_selected 0x1C l h, decodesTo_selected 0xAA l h,
    decodesTo_selected 0x0F l h, decodesTo_selected 0x44 l h, decodesTo_selected 0x48 l h⟩

/-! ### Sums of addresses (R4, R58 to R65) -/

theorem toNat_hilo_zero (b : Byte) : (hilo 0 b).toNat = b.toNat := by simp [toNat_hilo]

/-- An index added to an address is unsigned, and the sum wraps modulo 65536. -/
theorem toNat_add_index (w : Word) (index : Byte) :
    (w + index.setWidth 16).toNat = (w.toNat + index.toNat) % 65536 := by simp

/-- The page of an indexed address is not the page of the base exactly where the sum of the low bytes carries. -/
theorem hiByte_add_index_ne_iff (hi lo index : Byte) :
    hiByte (hilo hi lo + index.setWidth 16) ≠ hi ↔ 0x100 ≤ lo.toNat + index.toNat := by
  rw [ne_eq, ← BitVec.toNat_inj, toNat_hiByte, toNat_add_index, toNat_hilo]
  omega

/-! ### The operand of a memory mode (R57 to R64) -/

/-- A mode without pointer makes one access for its operand, the read at `EA`. -/
theorem operand_of_afterEa_eq {s : State} {m : EaMode} (h : s.afterEa m = s) :
    s.operand (.mem m) = s.memRead (s.ea m) ∧ s.byteAt m = s.memRead (s.ea m) ∧
      s.afterOperand (.mem m) = s.afterRead (s.ea m) := by
  simp only [State.operand, State.byteAt, State.afterOperand, State.afterByteAt, h, and_self]

/-- Settles O14: none of the modes has a pointer, and the sum with an index is a byte. -/
theorem zeroPageModes : Obligations.ZeroPageModes := by
  intro s b1
  refine ⟨rfl, rfl, rfl, toNat_hilo_zero b1, ?_, ?_, rfl, rfl, rfl, rfl, rfl, rfl, fun m hm => ?_⟩
  · exact (toNat_hilo_zero _).trans (BitVec.toNat_add b1 s.x)
  · exact (toNat_hilo_zero _).trans (BitVec.toNat_add b1 s.y)
  · have hmode : s.afterEa m = s ∧ m.len = 2 := by fin_cases hm <;> exact ⟨rfl, rfl⟩
    obtain ⟨hea, hlen⟩ := hmode
    obtain ⟨hop, hbyte, hafter⟩ := operand_of_afterEa_eq hea
    exact ⟨hea, hop, hbyte, hafter, hlen⟩

/-- Settles O15: an index is added to the word, and its carry out of the low byte is the change of page. -/
theorem absoluteIndexedModes : Obligations.AbsoluteIndexedModes := by
  intro s b2 b1
  have hcrossX : s.crossed (.absX (hilo b2 b1)) = true ↔ 0x100 ≤ b1.toNat + s.x.toNat := by simp [State.crossed]
  have hcrossY : s.crossed (.absY (hilo b2 b1)) = true ↔ 0x100 ≤ b1.toNat + s.y.toNat := by simp [State.crossed]
  refine ⟨toNat_hilo b2 b1, rfl, ?_, ?_, hcrossX, hcrossX.trans (hiByte_add_index_ne_iff b2 b1 s.x).symm,
    hcrossY, hcrossY.trans (hiByte_add_index_ne_iff b2 b1 s.y).symm, fun m hm => ?_⟩
  · rw [State.ea, toNat_add_index, toNat_hilo]
  · rw [State.ea, toNat_add_index, toNat_hilo]
  · have hmode : s.afterEa m = s ∧ m.len = 3 := by fin_cases hm <;> exact ⟨rfl, rfl⟩
    obtain ⟨hea, hlen⟩ := hmode
    exact ⟨hlen, hlen, hea, operand_of_afterEa_eq hea⟩

/-- Settles O16: the pointer is the pair read in page zero, and Y is added to what it holds. -/
theorem indirectModes : Obligations.IndirectModes := by
  intro s b1 zp low high done
  have hpointer : s.readPair (hilo 0 b1) (hilo 0 (b1 + 1)) = hilo (high b1) (low b1) := rfl
  refine ⟨rfl, rfl, rfl, ?_, rfl, decide_eq_true_iff, fun m hm => ?_⟩
  · rw [State.ea, hpointer, toNat_add_index, toNat_hilo]
  · have hlen : m.len = 2 := by fin_cases hm <;> rfl
    exact ⟨hlen, hlen, rfl, rfl, rfl⟩

/-! ### Branch targets (R65) -/

/-- Adding a sign-extended byte to an address adds its two's complement value, modulo 65536. -/
theorem toNat_add_signExtend (w : Word) (off : Byte) :
    ((w + off.signExtend 16).toNat : Int) = (w.toNat + off.toInt) % 65536 := by
  have hoff : off.toInt % 65536 = (off.signExtend 16).toNat % 65536 := by
    rw [← BitVec.toInt_signExtend_of_le (show 8 ≤ 16 by decide), BitVec.toInt_eq_toNat_bmod]
    exact Int.bmod_emod
  rw [BitVec.toNat_add]
  omega

/-- Settles O17: PC + 2 may itself wrap, which the sum modulo 65536 does not see. -/
theorem relativeTargetIsSigned : Obligations.RelativeTargetIsSigned := by
  intro s off
  refine ⟨?_, off.le_toInt, ?_⟩
  · rw [State.relTarget, toNat_add_signExtend, BitVec.toNat_add]
    simp
  · have := off.toInt_lt
    omega

/-! ### JMP (R66, R124) -/

/-- JMP reads nothing or its pointer, and moves PC. -/
theorem exec_jmp_eq (o : JmpOperand) (s : State) :
    exec (.jmp o) s = .next { s with pc := s.jmpTarget o, bus := (s.afterJmpTarget o).bus } := by
  cases o <;> rfl

theorem runsTo_jmp (o : JmpOperand) (s : State) :
    runsTo (.jmp o) s { s with pc := s.jmpTarget o, bus := (s.afterJmpTarget o).bus } := by
  refine ⟨exec_jmp_eq o s, ?_⟩
  cases o with
  | abs w => exact AgentState.sameMemory_of_mem rfl rfl
  | ind w => exact AgentState.sameMemory_of_mem (s.afterPair_regions _ _) (s.afterPair_mem _ _)

/-- Settles O18: the cells of the two forms, and their meanings at the pointer `b2:b1`. -/
theorem jumpForms : Obligations.JumpForms := by
  intro s b2 b1 read
  refine ⟨decodesTo_selected 0x4C b1 b2, decodesTo_selected 0x6C b1 b2, runsTo_jmp (.abs (hilo b2 b1)) s, ?_⟩
  have h := runsTo_jmp (.ind (hilo b2 b1)) s
  rw [State.jmpTarget, State.afterJmpTarget, hiByte_hilo, loByte_hilo] at h
  exact h

end Sys2Proof.Encoding
end

section
/-! The statements of family 40_load_store: the loads (O19) and the stores (O20). -/

namespace Sys2Proof.LoadStore

open Sys2Proof.Machine Sys2Proof.Safety

/-! ### Instructions with a read operand (R56 to R64) -/

/-- What reads its operand and then leaves the bus alone, as `f` does, runs to `f` of the state with the bus of the
operand's reads. -/
theorem runsTo_of_afterOperand {i : Instr} {s : State} {o : ReadOperand} {f : State → State}
    (hexec : exec i s = .next (f (s.afterOperand o))) (hbus : ∀ u, (f u).bus = u.bus) :
    runsTo i s (f { s with bus := (s.afterOperand o).bus }) := by
  rw [← State.afterOperand_eq]
  refine ⟨hexec, AgentState.sameMemory_of_mem ?_ ?_⟩
  · rw [hbus, State.afterOperand_regions]
  · rw [hbus, State.afterOperand_mem]

/-- Settles O19: each load is its operand's reads, then its register, N and Z, then PC. -/
theorem loadsSetRegisterNZ : Obligations.LoadsSetRegisterNZ := fun o s =>
  ⟨runsTo_of_afterOperand (f := fun u => (u.loadA (s.operand o)).advance o.len) rfl fun _ => rfl,
    runsTo_of_afterOperand (f := fun u => (u.loadX (s.operand o)).advance o.len) rfl fun _ => rfl,
    runsTo_of_afterOperand (f := fun u => (u.loadY (s.operand o)).advance o.len) rfl fun _ => rfl⟩

/-! ### Writing the byte at `EA` (R83 to R85) -/

/-- Reading the pointer and writing the byte at `EA` stores that byte alone. -/
theorem storesOnly_storeAt {s t : State} {m : EaMode} {v : Byte} (hbus : t.bus = (s.storeAt m v).bus) :
    storesOnly s t (s.ea m) v :=
  BusAndStack.storesOnly_of_write (AgentState.sameMemory_of_mem (s.afterEa_regions m) (s.afterEa_mem m)) hbus

/-- The three stores differ in the register alone. -/
theorem storesAt_storeAt (s : State) (m : EaMode) (v : Byte) :
    storesAt s (s.storeAt m v) ((s.storeAt m v).advance m.len) m v s.a s.p := by
  rw [State.storeAt_eq]
  exact ⟨storesOnly_storeAt rfl, rfl, rfl, rfl, rfl, rfl, rfl, rfl, rfl, rfl⟩

/-- Settles O20: each of the three is the shared operation with its own register. -/
theorem storesWriteOneByte : Obligations.StoresWriteOneByte := fun m s =>
  ⟨⟨_, rfl, storesAt_storeAt s m s.a⟩, ⟨_, rfl, storesAt_storeAt s m s.x⟩, ⟨_, rfl, storesAt_storeAt s m s.y⟩⟩

end Sys2Proof.LoadStore
end

section
/-! The statements of family 41_arithmetic: the binary sum and difference (O21, O22), the decimal ones (O23, O24), and
ADC and SBC (O25). -/

namespace Sys2Proof.Arithmetic

open Sys2Proof.Machine Sys2Proof.Safety

/-! ### Masks and the sign bit (R4, R92 to R95) -/

theorem and_signMask_ne_zero_iff (b : Byte) : b &&& 0x80 ≠ 0 ↔ b.msb = true := by
  have h : b &&& 0x80 = if b.getLsbD 7 then 0x80 else 0 := BitVec.and_twoPow b 7
  rw [h, BitVec.msb_eq_getLsbD_last]
  split <;> simp_all

theorem nat_and_signMask_ne_zero_iff (n : Nat) : n &&& 0x80 ≠ 0 ↔ n.testBit 7 = true := by
  have h : n &&& 0x80 = (n.testBit 7).toNat * 0x80 := Nat.and_two_pow n 7
  rw [h]
  cases n.testBit 7 <;> simp

theorem msb_ofNat (t : Nat) : (BitVec.ofNat 8 t).msb = t.testBit 7 := by
  rw [BitVec.msb_eq_getLsbD_last, BitVec.getLsbD_ofNat]
  rfl

theorem msb_eq_testBit (b : Byte) : b.msb = b.toNat.testBit 7 := by
  rw [BitVec.msb_eq_getLsbD_last, BitVec.testBit_toNat]

theorem nat_and_lowMask (n : Nat) : n &&& 0x0F = n % 16 := Nat.and_two_pow_sub_one_eq_mod n 4

theorem toNat_and_lowMask (b : Byte) : (b &&& 0x0F).toNat = lowDigit b := nat_and_lowMask b.toNat

/-- The mask is shifting the low digit out and back. -/
theorem toNat_and_highMask (b : Byte) : (b &&& 0xF0).toNat = highNibble b := by
  have hb := b.isLt
  have h : b >>> 4 <<< 4 = b &&& 0xF0 := BitVec.shiftLeft_ushiftRight
  rw [← h, BitVec.toNat_shiftLeft, BitVec.toNat_ushiftRight, Nat.shiftRight_eq_div_pow, Nat.shiftLeft_eq, highNibble]
  omega

theorem complement_eq_not (m : Byte) : m ^^^ 0xFF = ~~~m := BitVec.xor_allOnes

theorem toInt_complement (m : Byte) : (~~~m).toInt = -1 - m.toInt := by
  have := m.isLt
  simp only [BitVec.toInt_eq_toNat_cond, BitVec.toNat_not]
  omega

/-! ### The binary sum (R92) -/

section
variable (a m : Byte) (c : Bool)

theorem adcBin_r_toNat : (adcBin a m c).r.toNat = (a.toNat + m.toNat + c.toNat) % 256 := BitVec.toNat_ofNat _ _

theorem adcBin_c_iff : (adcBin a m c).c = true ↔ 0x100 ≤ a.toNat + m.toNat + c.toNat := decide_eq_true_iff

theorem adcBin_z_iff : (adcBin a m c).z = true ↔ (adcBin a m c).r = 0 := beq_iff_eq

theorem adcBin_n : (adcBin a m c).n = (adcBin a m c).r.getLsbD 7 :=
  BitVec.msb_eq_getLsbD_last (adcBin a m c).r

/-- V: both operands differ in sign from the result. -/
theorem adcBin_v_iff_msb :
    (adcBin a m c).v = true ↔ a.msb ≠ (adcBin a m c).r.msb ∧ m.msb ≠ (adcBin a m c).r.msb := by
  have h : (adcBin a m c).v = ((a ^^^ (adcBin a m c).r) &&& (m ^^^ (adcBin a m c).r)).msb := rfl
  simp [h]

/-- The signs of operands and result tell whether the signed sum fits. -/
theorem adcBin_v_iff_toInt :
    (adcBin a m c).v = true ↔
      a.toInt + m.toInt + c.toNat < -128 ∨ 127 < a.toInt + m.toInt + c.toNat := by
  have ha := a.isLt
  have hm := m.isLt
  have hc := c.toNat_le
  simp only [adcBin_v_iff_msb, BitVec.msb_eq_decide, adcBin_r_toNat, BitVec.toInt_eq_toNat_cond, ne_eq,
    decide_eq_decide]
  omega

end

/-- Settles O21, one law of the sum for each clause. -/
theorem binaryAdditionAsIntegers : Obligations.BinaryAdditionAsIntegers := fun a m c =>
  ⟨adcBin_r_toNat a m c, adcBin_c_iff a m c, (and_signMask_ne_zero_iff _).symm, adcBin_v_iff_toInt a m c,
    adcBin_n a m c, adcBin_z_iff a m c⟩

/-! ### The binary difference (R94)

Complementing the operand turns each fact about the sum into one about the difference. -/

section
variable (a m : Byte) (c : Bool)

theorem sbcBin_eq : sbcBin a m c = adcBin a (~~~m) c := by rw [sbcBin, complement_eq_not]

theorem sbcBin_r_toNat :
    ((sbcBin a m c).r.toNat : Int) = ((a.toNat : Int) - m.toNat - (1 - c.toNat)) % 256 := by
  have hm := m.isLt
  rw [sbcBin_eq, adcBin_r_toNat, BitVec.toNat_not]
  omega

theorem sbcBin_c_iff : (sbcBin a m c).c = true ↔ 0 ≤ (a.toNat : Int) - m.toNat - (1 - c.toNat) := by
  have hm := m.isLt
  rw [sbcBin_eq, adcBin_c_iff, BitVec.toNat_not]
  omega

theorem sbcBin_v_iff_mask :
    (sbcBin a m c).v = true ↔ (a ^^^ m) &&& (a ^^^ (sbcBin a m c).r) &&& 0x80 ≠ 0 := by
  rw [and_signMask_ne_zero_iff, BitVec.msb_and, BitVec.msb_xor, BitVec.msb_xor, sbcBin_eq, adcBin_v_iff_msb,
    BitVec.msb_not]
  cases a.msb <;> cases m.msb <;> simp

theorem sbcBin_v_iff_toInt :
    (sbcBin a m c).v = true ↔
      a.toInt - m.toInt - (1 - c.toNat) < -128 ∨ 127 < a.toInt - m.toInt - (1 - c.toNat) := by
  rw [sbcBin_eq, adcBin_v_iff_toInt, toInt_complement]
  omega

end

/-- Settles O22: N and Z are those of the sum with the complement. -/
theorem binarySubtractionAsIntegers : Obligations.BinarySubtractionAsIntegers := fun a m c =>
  ⟨rfl, sbcBin_r_toNat a m c, sbcBin_c_iff a m c, sbcBin_v_iff_mask a m c, sbcBin_v_iff_toInt a m c,
    adcBin_n a _ c, adcBin_z_iff a _ c⟩

/-! ### Packed digits (R93, R95)

A digit sum or difference splits into the digit that stays and the carry or borrow, 1 or -1, that goes to the next
digit: quotient and remainder by ten. The adjustments of the rules make them quotient and remainder by sixteen. -/

/-- A byte made of two decimal digits stands for their number. -/
theorem bcd_of_digits {b : Byte} {tens units : Nat} (ht : tens ≤ 9) (hu : units ≤ 9)
    (h : b.toNat = 16 * tens + units) : bcdValid b ∧ bcdValue b = 10 * tens + units := by
  unfold bcdValid bcdValue
  omega

/-! ### The decimal sum (R93) -/

theorem adjustUnits_add {al : Nat} (h : al ≤ 19) :
    (if 0x0A ≤ al then (al + 0x06) % 16 + 0x10 else al) = 16 * (al / 10) + al % 10 := by
  split <;> omega

theorem adjustTens_add {tens units : Nat} (ht : tens ≤ 19) (hu : units ≤ 9) :
    (if 0xA0 ≤ 16 * tens + units then 16 * tens + units + 0x60 else 16 * tens + units) =
      256 * (tens / 10) + 16 * (tens % 10) + units := by
  split <;> omega

/-- The sum of the low digits and C. -/
def unitsSum (a m : Byte) (c : Bool) : Nat := a.toNat % 16 + m.toNat % 16 + c.toNat

/-- The sum of the high digits and the carry from the low ones. -/
def tensSum (a m : Byte) (c : Bool) : Nat := a.toNat / 16 + m.toNat / 16 + unitsSum a m c / 10

section
variable {a m : Byte} (c : Bool) (ha : bcdValid a) (hm : bcdValid m)
include ha hm

/-- The digits of the adjusted sum, in the result and in C. -/
theorem bcdAdc_digits :
    (bcdAdc a m c).r.toNat = 16 * (tensSum a m c % 10) + unitsSum a m c % 10 ∧
    ((bcdAdc a m c).c = true ↔ 10 ≤ tensSum a m c) := by
  obtain ⟨hat, hau⟩ := ha
  obtain ⟨hmt, hmu⟩ := hm
  have hc := c.toNat_le
  have hunits : unitsSum a m c ≤ 19 := by unfold unitsSum; omega
  have htens : tensSum a m c ≤ 19 := by unfold tensSum; omega
  have hsum : highNibble a + highNibble m + (16 * (unitsSum a m c / 10) + unitsSum a m c % 10) =
      16 * tensSum a m c + unitsSum a m c % 10 := by
    unfold highNibble tensSum
    omega
  have hlow : lowDigit a + lowDigit m + c.toNat = unitsSum a m c := rfl
  have hdigit : unitsSum a m c % 10 ≤ 9 := by omega
  simp only [bcdAdc, hlow, adjustUnits_add hunits, hsum, adjustTens_add htens hdigit, BitVec.toNat_ofNat,
    decide_eq_true_iff]
  omega

theorem bcdAdc_of_valid :
    bcdValid (bcdAdc a m c).r ∧
    bcdValue (bcdAdc a m c).r = (bcdValue a + bcdValue m + c.toNat) % 100 ∧
    ((bcdAdc a m c).c = true ↔ 100 ≤ bcdValue a + bcdValue m + c.toNat) := by
  obtain ⟨hr, hcarry⟩ := bcdAdc_digits c ha hm
  obtain ⟨hvalid, hvalue⟩ := bcd_of_digits (by omega) (by omega) hr
  have hsum : bcdValue a + bcdValue m + c.toNat = 10 * tensSum a m c + unitsSum a m c % 10 := by
    unfold bcdValue tensSum unitsSum
    omega
  rw [hvalue, hcarry, hsum]
  exact ⟨hvalid, by omega, by omega⟩

end

/-- V of R93 on the unbounded sum `t`, and on its byte. -/
theorem overflow_ofNat (a m : Byte) (t : Nat) :
    ((a ^^^ BitVec.ofNat 8 t) &&& (m ^^^ BitVec.ofNat 8 t)).msb =
      decide ((a.toNat ^^^ t) &&& (m.toNat ^^^ t) &&& 0x80 ≠ 0) := by
  simp only [nat_and_signMask_ne_zero_iff, BitVec.msb_and, BitVec.msb_xor, msb_ofNat, ← msb_eq_testBit,
    Nat.testBit_and, Nat.testBit_xor, Bool.decide_eq_true]

theorem ofNat_beq_zero (t : Nat) : (BitVec.ofNat 8 t == 0) = decide (t &&& 0xFF = 0) := by
  have h : t &&& 0xFF = (BitVec.ofNat 8 t).toNat := Nat.and_two_pow_sub_one_eq_mod t 8
  rw [h, Bool.eq_iff_iff, beq_iff_eq, decide_eq_true_iff, ← BitVec.toNat_inj]
  rfl

/-- Settles O23: the model's quotients and remainders are the masks of the rule. -/
theorem decimalAddition : Obligations.DecimalAddition := by
  refine ⟨fun a m c => ?_, fun a m c ha hm => bcdAdc_of_valid c ha hm⟩
  simp only [bcdAdc, toNat_and_lowMask, toNat_and_highMask, nat_and_lowMask, msb_ofNat, overflow_ofNat, ofNat_beq_zero]

/-! ### The decimal difference (R95) -/

theorem adjustUnits_sub {al : Int} (hlow : -10 ≤ al) (hhigh : al ≤ 9) :
    (if al < 0 then (al - 0x06) % 16 - 0x10 else al) = 16 * (al / 10) + al % 10 := by
  split <;> omega

theorem adjustTens_sub {tens units : Int} (hlow : -10 ≤ tens) (hhigh : tens ≤ 9) (hu0 : 0 ≤ units)
    (hu9 : units ≤ 9) :
    (if 16 * tens + units < 0 then 16 * tens + units - 0x60 else 16 * tens + units) =
      256 * (tens / 10) + 16 * (tens % 10) + units := by
  split <;> omega

/-- The difference of the low digits less the borrow that C stands for. -/
def unitsDiff (a m : Byte) (c : Bool) : Int := (a.toNat % 16 : Nat) - (m.toNat % 16 : Nat) + c.toNat - 1

/-- The difference of the high digits with the borrow from the low ones, which counts as -1. -/
def tensDiff (a m : Byte) (c : Bool) : Int := (a.toNat / 16 : Nat) - (m.toNat / 16 : Nat) + unitsDiff a m c / 10

section
variable {a m : Byte} (c : Bool) (ha : bcdValid a) (hm : bcdValid m)
include ha hm

/-- The digits of the adjusted difference. -/
theorem bcdSbc_digits :
    ((bcdSbc a m c).toNat : Int) = 16 * (tensDiff a m c % 10) + unitsDiff a m c % 10 := by
  obtain ⟨hat, hau⟩ := ha
  obtain ⟨hmt, hmu⟩ := hm
  have hc := c.toNat_le
  obtain ⟨hulow, huhigh⟩ : -10 ≤ unitsDiff a m c ∧ unitsDiff a m c ≤ 9 := by unfold unitsDiff; omega
  obtain ⟨htlow, hthigh⟩ : -10 ≤ tensDiff a m c ∧ tensDiff a m c ≤ 9 := by unfold tensDiff; omega
  have hdiff : (highNibble a : Int) - highNibble m + (16 * (unitsDiff a m c / 10) + unitsDiff a m c % 10) =
      16 * tensDiff a m c + unitsDiff a m c % 10 := by
    unfold highNibble tensDiff
    omega
  have hlow : (lowDigit a : Int) - lowDigit m + c.toNat - 1 = unitsDiff a m c := rfl
  simp only [bcdSbc, hlow, adjustUnits_sub hulow huhigh, hdiff]
  rw [adjustTens_sub htlow hthigh (by omega) (by omega), BitVec.toNat_ofInt]
  omega

theorem bcdSbc_of_valid :
    bcdValid (bcdSbc a m c) ∧
    (bcdValue (bcdSbc a m c) : Int) = ((bcdValue a : Int) - bcdValue m - (1 - c.toNat)) % 100 ∧
    ((sbcBin a m c).c = true ↔ 0 ≤ (bcdValue a : Int) - bcdValue m - (1 - c.toNat)) := by
  have hr : (bcdSbc a m c).toNat = 16 * (tensDiff a m c % 10).toNat + (unitsDiff a m c % 10).toNat := by
    have := bcdSbc_digits c ha hm
    omega
  obtain ⟨hvalid, hvalue⟩ := bcd_of_digits (by omega) (by omega) hr
  have hdiff : (bcdValue a : Int) - bcdValue m - (1 - c.toNat) = 10 * tensDiff a m c + unitsDiff a m c % 10 := by
    unfold bcdValue tensDiff unitsDiff
    omega
  refine ⟨hvalid, by omega, ?_⟩
  obtain ⟨-, hau⟩ := ha
  obtain ⟨-, hmu⟩ := hm
  have hc := c.toNat_le
  rw [sbcBin_c_iff]
  unfold bcdValue
  omega

end

/-- Settles O24: the byte of an integer is its remainder by 256. -/
theorem decimalSubtraction : Obligations.DecimalSubtraction := by
  refine ⟨fun a m c => ?_, fun a m c ha hm => bcdSbc_of_valid c ha hm⟩
  simp only [toNat_and_lowMask, toNat_and_highMask]
  rw [bcdSbc, BitVec.toNat_ofInt]
  exact Int.toNat_of_nonneg (Int.emod_nonneg _ (by decide))

/-! ### ADC and SBC (R90, R91) -/

theorem adcResult_eq (d : Bool) (a m : Byte) (c : Bool) :
    adcResult d a m c = if d = true then bcdAdc a m c else adcBin a m c := by
  cases d <;> rfl

/-- D decides the result byte alone. -/
theorem sbcResult_eq (d : Bool) (a m : Byte) (c : Bool) :
    sbcResult d a m c =
      { sbcBin a m c with r := if d = true then bcdSbc a m c else (sbcBin a m c).r } := by
  cases d <;> rfl

/-- What reads its operand and then sets A and four flags. -/
theorem runsTo_setArith {i : Instr} {s : State} {o : ReadOperand} {q : ArithResult}
    (hexec : exec i s = .next (((s.afterOperand o).setArith q).advance o.len)) :
    runsTo i s
      { s with
        a := q.r
        p := s.p.setArith q
        pc := s.pc + BitVec.ofNat 16 o.len
        bus := (s.afterOperand o).bus } :=
  LoadStore.runsTo_of_afterOperand (f := fun u => (u.setArith q).advance o.len) hexec fun _ => rfl

theorem exec_adc (o : ReadOperand) (s : State) :
    exec (.adc o) s =
      .next (((s.afterOperand o).setArith (adcResult s.p.d s.a (s.operand o) s.p.c)).advance o.len) := rfl

theorem exec_sbc (o : ReadOperand) (s : State) :
    exec (.sbc o) s =
      .next (((s.afterOperand o).setArith (sbcResult s.p.d s.a (s.operand o) s.p.c)).advance o.len) := rfl

/-- Settles O25: each is its operand's reads, then A and the four flags, then PC. -/
theorem addAndSubtractWithCarry : Obligations.AddAndSubtractWithCarry := fun o s =>
  ⟨runsTo_setArith (s := s) (by rw [exec_adc, adcResult_eq]),
    runsTo_setArith (s := s) (by rw [exec_sbc, sbcResult_eq])⟩

end Sys2Proof.Arithmetic
end

section
/-! The statements of family 42_bitwise: AND, ORA and EOR (O29), the four shifts as arithmetic (O30), and the shifts of
the accumulator (O31). -/

namespace Sys2Proof.Bitwise

open Sys2Proof.Machine Sys2Proof.Safety

/-! ### AND, ORA, EOR (R100 to R102) -/

/-- What reads its operand and then loads A, whatever the combination `v` is. -/
theorem runsTo_loadA {i : Instr} {s : State} {o : ReadOperand} {v : Byte}
    (hexec : exec i s = .next (((s.afterOperand o).loadA v).advance o.len)) :
    runsTo i s
      { s with
        a := v
        p := s.p.setNZ v
        pc := s.pc + BitVec.ofNat 16 o.len
        bus := (s.afterOperand o).bus } :=
  LoadStore.runsTo_of_afterOperand (f := fun u => (u.loadA v).advance o.len) hexec fun _ => rfl

/-- Settles O29: each is its operand's reads, then A, N and Z, then PC. -/
theorem logicSetsANZ : Obligations.LogicSetsANZ := fun _ s =>
  ⟨runsTo_loadA (s := s) rfl, runsTo_loadA (s := s) rfl, runsTo_loadA (s := s) rfl⟩

/-! ### The shifts as arithmetic (R103 to R106)

A rotate is a shift of nine bits: ROL takes `v:C` to `C:r`, ROR takes `C:v` to `r:C`. ASL and LSR are the rotates of a
clear carry. -/

section
variable (v : Byte) (c : Bool)

theorem shiftAsl_eq_shiftRol : shiftAsl v c = shiftRol v false := by simp [shiftAsl, shiftRol]

theorem shiftLsr_eq_shiftRor : shiftLsr v c = shiftRor v false := by simp [shiftLsr, shiftRor]

theorem shiftRol_r : (shiftRol v c).r = (v ++ BitVec.ofBool c).setWidth 8 := by
  ext k hk
  rw [BitVec.getElem_setWidth, BitVec.getLsbD_append]
  cases k with
  | zero => simp [shiftRol]
  | succ k => simp [shiftRol, BitVec.getLsbD_eq_getElem (Nat.lt_of_succ_lt hk)]

theorem shiftRor_r : (shiftRor v c).r = (BitVec.ofBool c ++ v).extractLsb' 1 8 := by
  ext k hk
  rw [BitVec.getElem_extractLsb', BitVec.getLsbD_append]
  obtain hlow | rfl : k < 7 ∨ k = 7 := by omega
  · have hbit : 1 + k < 8 := by omega
    simp [shiftRor, hlow, hbit]
  · simp [shiftRor]

theorem toNat_shiftRol_r : (shiftRol v c).r.toNat = (2 * v.toNat + c.toNat) % 256 := by
  rw [shiftRol_r, BitVec.toNat_setWidth, AgentState.toNat_append_ofBool]

theorem toNat_shiftRor_r : (shiftRor v c).r.toNat = v.toNat / 2 + 128 * c.toNat := by
  have hv := v.isLt
  have hc := c.toNat_lt
  rw [shiftRor_r, BitVec.extractLsb'_toNat, BitVec.toNat_append, ← Nat.shiftLeft_add_eq_or_of_lt v.isLt,
    BitVec.toNat_ofBool, Nat.shiftLeft_eq, Nat.shiftRight_eq_div_pow]
  omega

theorem toNat_shiftRol_c : (shiftRol v c).c.toNat = v.toNat / 128 := by
  have hv := v.isLt
  have h : (shiftRol v c).c.toNat = v.toNat / 128 % 2 := Nat.toNat_testBit v.toNat 7
  omega

theorem toNat_shiftRor_c : (shiftRor v c).c.toNat = v.toNat % 2 :=
  (Nat.toNat_testBit v.toNat 0).trans (by rw [pow_zero, Nat.div_one])

end

theorem shiftResult_eq_of_toNat {q : ShiftResult} {v : Byte} {c : Bool} (hr : q.r.toNat = v.toNat)
    (hc : q.c.toNat = c.toNat) : q = { r := v, c := c } := by
  obtain ⟨r, b⟩ := q
  have hr : r = v := BitVec.eq_of_toNat_eq hr
  have hc : b = c := Function.LeftInverse.injective Bool.ofNat_toNat hc
  rw [hr, hc]

/-- `ROR` takes the nine bits `C:r` that `ROL` left back to `v:C`. -/
theorem shiftRor_shiftRol (v : Byte) (c : Bool) :
    shiftRor (shiftRol v c).r (shiftRol v c).c = { r := v, c := c } := by
  have hc := c.toNat_lt
  have hv := v.isLt
  apply shiftResult_eq_of_toNat
  · rw [toNat_shiftRor_r, toNat_shiftRol_r, toNat_shiftRol_c]
    omega
  · rw [toNat_shiftRor_c, toNat_shiftRol_r]
    omega

/-- `ROL` takes the nine bits `r:C` that `ROR` left back to `C:v`. -/
theorem shiftRol_shiftRor (v : Byte) (c : Bool) :
    shiftRol (shiftRor v c).r (shiftRor v c).c = { r := v, c := c } := by
  have hc := c.toNat_lt
  have hv := v.isLt
  apply shiftResult_eq_of_toNat
  · rw [toNat_shiftRol_r, toNat_shiftRor_r, toNat_shiftRor_c]
    omega
  · rw [toNat_shiftRol_c, toNat_shiftRor_r]
    omega

/-- Settles O30: the two rotates as numbers, ASL and LSR as rotates of a clear carry, and the rotates back. -/
theorem shiftsAsArithmetic : Obligations.ShiftsAsArithmetic := fun v c =>
  ⟨by rw [shiftAsl_eq_shiftRol, toNat_shiftRol_r, Bool.toNat_false, Nat.add_zero], rfl,
    by rw [shiftLsr_eq_shiftRor, toNat_shiftRor_r, Bool.toNat_false, Nat.mul_zero, Nat.add_zero], rfl,
    toNat_shiftRol_r v c, rfl, toNat_shiftRor_r v c, rfl, shiftRor_shiftRol v c, shiftRol_shiftRor v c⟩

/-! ### The shifts of the accumulator (R103 to R106) -/

/-- The four shifts differ in the function alone. -/
theorem runsTo_shift_acc {i : Instr} {s : State} {f : Byte → Bool → ShiftResult}
    (hexec : exec i s = .next ((s.shift f .acc).advance 1)) :
    runsTo i s { s with a := (f s.a s.p.c).r, p := s.p.setShift (f s.a s.p.c), pc := s.pc + 1 } :=
  ⟨hexec, AgentState.sameMemory_of_mem rfl rfl⟩

/-- Settles O31: each of the four is the shared operation with its own function. -/
theorem shiftsOfTheAccumulator : Obligations.ShiftsOfTheAccumulator := fun _ =>
  ⟨runsTo_shift_acc (f := shiftAsl) rfl, runsTo_shift_acc (f := shiftLsr) rfl,
    runsTo_shift_acc (f := shiftRol) rfl, runsTo_shift_acc (f := shiftRor) rfl⟩

end Sys2Proof.Bitwise
end

section
/-! The statements of family 43_branch: the eight branches (O35), the branches after CMP (O28), and the cycle counts
with their two footnotes (O60). -/

namespace Sys2Proof.Branch

open Sys2Proof.Machine Sys2Proof.Safety

/-! ### The common body (R110) -/

/-- A branch whose test is the proposition `P` moves PC by `P`, and changes nothing else. -/
theorem exec_of_branch {i : Instr} {s : State} {cond : Bool} {off : Byte} {P : Prop} [Decidable P]
    (hexec : exec i s = .next (s.branch cond off)) (htest : cond = true ↔ P) :
    exec i s = .next { s with pc := if P then s.relTarget off else s.pc + 2 } := by
  simp only [hexec, State.branch_eq, htest]

/-- The eight branches differ in the flag test alone. -/
theorem runsTo_branch {i : Instr} {s : State} {cond : Bool} {off : Byte}
    (hexec : exec i s = .next (s.branch cond off)) :
    runsTo i s { s with pc := if cond = true then s.pc + 2 + off.signExtend 16 else s.pc + 2 } :=
  ⟨exec_of_branch hexec Iff.rfl, AgentState.sameMemory_of_mem rfl rfl⟩

/-- Settles O35: the cell of each branch, and the common body with its flag test; a test for 0 is the negation. -/
theorem branchesTestOneFlag : Obligations.BranchesTestOneFlag := by
  intro off s go
  simp only [go, beq_false, beq_true]
  exact
    ⟨⟨Encoding.decodesTo_selected 0x10 off 0, runsTo_branch rfl⟩,
      ⟨Encoding.decodesTo_selected 0x30 off 0, runsTo_branch rfl⟩,
      ⟨Encoding.decodesTo_selected 0x50 off 0, runsTo_branch rfl⟩,
      ⟨Encoding.decodesTo_selected 0x70 off 0, runsTo_branch rfl⟩,
      ⟨Encoding.decodesTo_selected 0x90 off 0, runsTo_branch rfl⟩,
      ⟨Encoding.decodesTo_selected 0xB0 off 0, runsTo_branch rfl⟩,
      ⟨Encoding.decodesTo_selected 0xD0 off 0, runsTo_branch rfl⟩,
      ⟨Encoding.decodesTo_selected 0xF0 off 0, runsTo_branch rfl⟩⟩

/-! ### Branches after CMP (R115 to R118, R161, R164) -/

/-- CMP reads its operand, compares A with it, and moves PC. -/
theorem exec_cmp (o : ReadOperand) (s : State) :
    exec (.cmp o) s = .next (((s.afterOperand o).compare s.a (s.operand o)).advance o.len) := rfl

section
variable (p : Flags) (r m : Byte)

theorem compare_c_iff : (p.compare r m).c = true ↔ m.toNat ≤ r.toNat := by
  rw [Flags.compare_c, decide_eq_true_iff]

theorem not_compare_c_iff : (!(p.compare r m).c) = true ↔ r.toNat < m.toNat := by
  rw [Bool.not_eq_true', ← Bool.not_eq_true, compare_c_iff, Nat.not_le]

theorem compare_z_iff : (p.compare r m).z = true ↔ r = m := by
  rw [Flags.compare_z, beq_iff_eq]

theorem not_compare_z_iff : (!(p.compare r m).z) = true ↔ ¬ r = m := by
  rw [Bool.not_eq_true', ← Bool.not_eq_true, compare_z_iff]

end

/-- Settles O28: C and Z of the comparison are the order and the equality that the four branches test. -/
theorem branchesAfterCompareTestTheOrder : Obligations.BranchesAfterCompareTestTheOrder := by
  intro o s off
  refine ⟨_, exec_cmp o s, ?bcc, ?bcs, ?beq, ?bne⟩
  case bcc => exact exec_of_branch rfl (not_compare_c_iff _ _ _)
  case bcs => exact exec_of_branch rfl (compare_c_iff _ _ _)
  case beq => exact exec_of_branch rfl (compare_z_iff _ _ _)
  case bne =>
    rw [← ite_not]
    exact exec_of_branch rfl (not_compare_z_iff _ _ _)

/-! ### Cycle counts (R110, R230, R231)

The instructions fall into classes whose count depends on the operand alone. -/

/-- The instructions that read the operand `o`. -/
def reading (o : ReadOperand) : List Instr :=
  [.lda o, .ldx o, .ldy o, .adc o, .sbc o, .and o, .ora o, .eor o, .cmp o, .cpx o, .cpy o]

/-- The instructions that store to the byte of mode `m`. -/
def storing (m : EaMode) : List Instr := [.sta m, .stx m, .sty m]

/-- The instructions that read the byte of mode `m` and write it back. -/
def updating (m : EaMode) : List Instr :=
  [.asl (.mem m), .lsr (.mem m), .rol (.mem m), .ror (.mem m), .inc m, .dec m, .slo m, .rla m, .sre m, .rra m]

/-- Footnote `*`: a condition such as `Crossed` counts for one cycle where it holds. -/
theorem add_toNat_decide (n : Nat) (P : Prop) [Decidable P] :
    n + (decide P).toNat = if P then n + 1 else n := by
  by_cases h : P <;> simp [h]

section
variable (s : State)

theorem cycles_of_mem_reading (o : ReadOperand) : ∀ i ∈ reading o, s.cycles i = some (s.operandCycles o) := by
  intro i hi
  fin_cases hi <;> rfl

theorem cycles_of_mem_storing (m : EaMode) : ∀ i ∈ storing m, s.cycles i = some (storeCycles m) := by
  intro i hi
  fin_cases hi <;> rfl

theorem cycles_of_mem_updating (m : EaMode) : ∀ i ∈ updating m, s.cycles i = some (modifyCycles m) := by
  intro i hi
  fin_cases hi <;> rfl

/-- BIT and the undocumented NOPs take as long as the other reads of the mode. -/
theorem cycles_readAt {m : EaMode} {n : Nat} (op : Byte) (hread : s.readCycles m = n) :
    (∀ i ∈ reading (.mem m), s.cycles i = some n) ∧ s.cycles (.bit m) = some n ∧
      s.cycles (.nopUndoc op (.mem m)) = some n := by
  subst hread
  exact ⟨cycles_of_mem_reading s (.mem m), rfl, rfl⟩

theorem readCycles_absX (w : Word) :
    s.readCycles (.absX w) = if 0x100 ≤ (loByte w).toNat + s.x.toNat then 4 + 1 else 4 := add_toNat_decide _ _

theorem readCycles_absY (w : Word) :
    s.readCycles (.absY w) = if 0x100 ≤ (loByte w).toNat + s.y.toNat then 4 + 1 else 4 := add_toNat_decide _ _

theorem readCycles_indY (b : Byte) :
    s.readCycles (.indY b) =
      if 0x100 ≤ (s.memRead (hilo 0 b)).toNat + s.y.toNat then 5 + 1 else 5 := add_toNat_decide _ _

end

/-- Settles O60, class by class; in the classes that no footnote marks the counts are constants. -/
theorem cyclesFollowTheFootnotes : Obligations.CyclesFollowTheFootnotes := by
  intro s off b op w target branch reads readsAt stores updates crossing
  refine ⟨?branches, ?reads, ?stores, ?updates, ?plain, rfl, rfl, rfl, rfl, rfl, rfl, rfl, rfl, rfl, rfl, rfl⟩
  case branches =>
    simp only [beq_false, beq_true]
    exact ⟨rfl, rfl, rfl, rfl, rfl, rfl, rfl, rfl⟩
  case reads =>
    exact ⟨cycles_of_mem_reading s (.imm b), cycles_readAt s op rfl, cycles_readAt s op rfl, cycles_readAt s op rfl,
      cycles_readAt s op rfl, cycles_readAt s op (readCycles_absX s w), cycles_readAt s op (readCycles_absY s w),
      cycles_readAt s op rfl, cycles_readAt s op (readCycles_indY s b)⟩
  case stores =>
    exact ⟨cycles_of_mem_storing s (.zpg b), cycles_of_mem_storing s (.zpgX b), cycles_of_mem_storing s (.zpgY b),
      cycles_of_mem_storing s (.abs w), cycles_of_mem_storing s (.absX w), cycles_of_mem_storing s (.absY w),
      cycles_of_mem_storing s (.xInd b), cycles_of_mem_storing s (.indY b)⟩
  case updates =>
    exact ⟨cycles_of_mem_updating s (.zpg b), cycles_of_mem_updating s (.zpgX b), cycles_of_mem_updating s (.abs w),
      cycles_of_mem_updating s (.absX w), cycles_of_mem_updating s (.absY w), cycles_of_mem_updating s (.xInd b),
      cycles_of_mem_updating s (.indY b)⟩
  case plain =>
    intro i hi
    fin_cases hi <;> rfl

end Sys2Proof.Branch
end

section
/-! The statements of family 44_control on their own: the two returns (O41) and JSR (O43). What either does to the
frame of BRK or JSR is O42 and O44. -/

namespace Sys2Proof.Control

open Sys2Proof.Machine Sys2Proof.Safety

/-! ### The returns (R121, R123)

The model moves S by one with each pull, the statements count from the old S. -/

theorem byte_add_one_add_one (b : Byte) : b + 1 + 1 = b + 2 := BitVec.add_assoc b 1 1

theorem byte_add_one_add_one_add_one (b : Byte) : b + 1 + 1 + 1 = b + 3 := by
  rw [byte_add_one_add_one]
  exact BitVec.add_assoc b 1 2

/-- RTI as three reads of the stack. -/
theorem runsTo_rti (s : State) :
    runsTo .rti s { s.pull.pull16 with p := Flags.ofByte s.pulled, pc := s.pull.pulled16 } :=
  ⟨rfl, AgentState.sameMemory_of_mem (by simp) ((AgentState.pull16_mem s.pull).trans (AgentState.pull_mem s))⟩

/-- RTS as two reads of the stack. -/
theorem runsTo_rts (s : State) : runsTo .rts s (s.pull16.jump (s.pulled16 + 1)) :=
  ⟨rfl, AgentState.sameMemory_of_mem (by simp) (AgentState.pull16_mem s)⟩

/-- Settles O41: a pull is a read at the address above S, and the pulls follow one another up the page. -/
theorem returnsPullTheAddress : Obligations.ReturnsPullTheAddress := by
  refine ⟨Encoding.decodesTo_selected 0x40 0 0, Encoding.decodesTo_selected 0x60 0 0, fun s => ?_⟩
  rw [← byte_add_one_add_one_add_one s.sp, ← byte_add_one_add_one s.sp]
  exact ⟨runsTo_rti s, runsTo_rts s⟩

/-! ### The word that a call pushes (R36, R122) -/

theorem byte_sub_one_sub_one (b : Byte) : b - 1 - 1 = b - 2 := BitVec.sub_sub b 1 1

section
variable {s : State} (w : Word)

/-- The second push goes below the first, so the high byte stays at the old S. -/
theorem memRead_push16_high (h : ramAt s (stackAddr s.sp)) :
    (s.push16 w).memRead (stackAddr s.sp) = hiByte w := by
  have hmem : ¬ deviceAt (s.push (hiByte w)) (stackAddr s.sp) :=
    BusAndStack.not_deviceAt_of_ramAt (by simpa [ramAt] using h)
  have hbelow : busAddr (stackAddr (s.push (hiByte w)).sp) ≠ busAddr (stackAddr s.sp) := by
    rw [ne_eq, busAddr_stackAddr_inj]
    exact byte_sub_one_ne s.sp
  calc (s.push16 w).memRead (stackAddr s.sp)
      = (s.push (hiByte w)).memRead (stackAddr s.sp) := State.memRead_push_other hmem hbelow _
    _ = hiByte w := State.memRead_push_same h _

theorem memRead_push16_low (h : ramAt s (stackAddr (s.sp - 1))) :
    (s.push16 w).memRead (stackAddr (s.sp - 1)) = loByte w :=
  State.memRead_push_same (s := s.push (hiByte w)) (by simpa [ramAt] using h) _

theorem memRead_push16_other {b : Word} (hb : ¬ deviceAt s b) (hhigh : busAddr b ≠ busAddr (stackAddr s.sp))
    (hlow : busAddr b ≠ busAddr (stackAddr (s.sp - 1))) : (s.push16 w).memRead b = s.memRead b := by
  have hmem : ¬ deviceAt (s.push (hiByte w)) b := by simpa [deviceAt] using hb
  calc (s.push16 w).memRead b
      = (s.push (hiByte w)).memRead b := State.memRead_push_other hmem hlow.symm _
    _ = s.memRead b := State.memRead_push_other hb hhigh.symm _

/-- With the stack in RAM, each byte of memory after the two pushes, found by its bus address. -/
theorem memRead_push16 (hram : stackIsRam s) {b : Word} (hb : ¬ deviceAt s b) :
    (s.push16 w).memRead b =
      if busAddr b = busAddr (stackAddr s.sp) then hiByte w
      else if busAddr b = busAddr (stackAddr (s.sp - 1)) then loByte w
      else s.memRead b := by
  split_ifs with hhigh hlow
  · rw [Scope.memRead_of_busAddr_eq hhigh, memRead_push16_high w (hram _)]
  · rw [Scope.memRead_of_busAddr_eq hlow, memRead_push16_low w (hram _)]
  · exact memRead_push16_other w hb hhigh hlow

end

/-! ### JSR (R122) -/

/-- The state after JSR: two pushes, the read of the high byte of the target, the jump. -/
def called (s : State) (target : Word) : State :=
  let pushed := s.push16 (s.pc + 2)
  (pushed.afterRead (s.pc + 2)).jump (hilo (pushed.memRead (s.pc + 2)) (loByte target))

theorem exec_jsr (s : State) (target : Word) : exec (.jsr target) s = .next (called s target) := rfl

theorem called_eq (s : State) (target : Word) :
    called s target =
      { s with
        sp := s.sp - 2
        pc := hilo ((s.push16 (s.pc + 2)).memRead (s.pc + 2)) (loByte target)
        bus := ((s.push16 (s.pc + 2)).afterRead (s.pc + 2)).bus } := by
  rw [← byte_sub_one_sub_one]
  rfl

/-- Only the pushes change memory: the read of the target's high byte and the jump do not. -/
theorem memRead_called {s : State} {b : Word} (hb : ¬ deviceAt s b) (target : Word) :
    (called s target).memRead b = (s.push16 (s.pc + 2)).memRead b := by
  have hmem : ¬ deviceAt (s.push16 (s.pc + 2)) b := by simpa [deviceAt] using hb
  exact State.memRead_afterRead hmem (s.pc + 2)

theorem hiByte_pc_called (s : State) (target : Word) :
    hiByte (called s target).pc = (s.push16 (s.pc + 2)).memRead (s.pc + 2) := hiByte_hilo _ _

/-- Settles O43: every byte is read in the memory that the two pushes leave, the target's high byte too. -/
theorem jumpToSubroutine : Obligations.JumpToSubroutine := by
  intro s target
  refine ⟨called s target, exec_jsr s target, called_eq s target, fun hram => ?high, fun hram => ?low,
    fun b hb hhigh hlow => ?other, fun hram hret => ?target⟩
  case high => rw [memRead_called (BusAndStack.not_deviceAt_of_ramAt hram), memRead_push16_high _ hram]
  case low => rw [memRead_called (BusAndStack.not_deviceAt_of_ramAt hram), memRead_push16_low _ hram]
  case other => rw [memRead_called hb, memRead_push16_other _ hb hhigh hlow]
  case target => rw [hiByte_pc_called, memRead_push16 _ hram hret]

end Sys2Proof.Control
end

section
/-! The statement of family 45_flags: the seven flag instructions (O36). -/

namespace Sys2Proof.FlagInstructions

open Sys2Proof.Machine Sys2Proof.Safety

/-! ### The common body (R130 to R136) -/

/-- The seven differ in the status byte alone. -/
theorem runsTo_setFlags {i : Instr} {s : State} {p : Flags} (hexec : exec i s = .next ((s.setFlags p).advance 1)) :
    runsTo i s { s with p := p, pc := s.pc + 1 } :=
  ⟨hexec, AgentState.sameMemory_of_mem rfl rfl⟩

/-- Settles O36: the cell of each opcode, and the common body with its one flag written. -/
theorem flagInstructionsWriteOneFlag : Obligations.FlagInstructionsWriteOneFlag := fun _ =>
  ⟨⟨Encoding.decodesTo_selected 0x18 0 0, runsTo_setFlags rfl⟩,
    ⟨Encoding.decodesTo_selected 0x38 0 0, runsTo_setFlags rfl⟩,
    ⟨Encoding.decodesTo_selected 0x58 0 0, runsTo_setFlags rfl⟩,
    ⟨Encoding.decodesTo_selected 0x78 0 0, runsTo_setFlags rfl⟩,
    ⟨Encoding.decodesTo_selected 0xB8 0 0, runsTo_setFlags rfl⟩,
    ⟨Encoding.decodesTo_selected 0xD8 0 0, runsTo_setFlags rfl⟩,
    ⟨Encoding.decodesTo_selected 0xF8 0 0, runsTo_setFlags rfl⟩⟩

end Sys2Proof.FlagInstructions
end

section
/-! The statement of family 46_transfer: the six transfers (O37). -/

namespace Sys2Proof.Transfer

open Sys2Proof.Machine Sys2Proof.Safety

/-! ### The common body (R140 to R145) -/

/-- What changes registers and flags alone, as `u` says, and then moves PC past its one byte keeps all of memory. -/
theorem runsTo_of_bus_eq {i : Instr} {s u : State} (hexec : exec i s = .next (u.advance 1)) (hbus : u.bus = s.bus) :
    runsTo i s (u.advance 1) :=
  ⟨hexec, AgentState.sameMemory_of_mem (congrArg Bus.regions hbus) (congrArg Bus.mem hbus)⟩

/-- Settles O37: the cell of each opcode, and the load of the destination with the source. TXS alone is no load: it
writes S and no flag. -/
theorem transfersCopyOneRegister : Obligations.TransfersCopyOneRegister := fun s =>
  ⟨⟨Encoding.decodesTo_selected 0xAA 0 0, runsTo_of_bus_eq (u := s.loadX s.a) rfl rfl⟩,
    ⟨Encoding.decodesTo_selected 0x8A 0 0, runsTo_of_bus_eq (u := s.loadA s.x) rfl rfl⟩,
    ⟨Encoding.decodesTo_selected 0xA8 0 0, runsTo_of_bus_eq (u := s.loadY s.a) rfl rfl⟩,
    ⟨Encoding.decodesTo_selected 0x98 0 0, runsTo_of_bus_eq (u := s.loadA s.y) rfl rfl⟩,
    ⟨Encoding.decodesTo_selected 0xBA 0 0, runsTo_of_bus_eq (u := s.loadX s.sp) rfl rfl⟩,
    ⟨Encoding.decodesTo_selected 0x9A 0 0, runsTo_of_bus_eq (u := { s with sp := s.x }) rfl rfl⟩⟩

end Sys2Proof.Transfer
end

section
/-! The statement of family 47_stack: the two pushes and the two pulls (O38). -/

namespace Sys2Proof.StackInstructions

open Sys2Proof.Machine Sys2Proof.Safety

/-- The two pushes differ in the byte alone. -/
theorem exec_of_push {i : Instr} {s : State} {v : Byte} (hexec : exec i s = .next ((s.push v).advance 1)) :
    ∃ t, exec i s = .next t ∧ storesOnly s t (stackAddr s.sp) v ∧
      t = { s with sp := s.sp - 1, pc := s.pc + 1, bus := (s.memWrite (stackAddr s.sp) v).bus } :=
  ⟨_, hexec, BusAndStack.storesOnly_of_write (BusAndStack.sameMemory_refl s) rfl, rfl⟩

/-- The two pulls differ in where the byte goes: what pulls one byte and then leaves the bus alone keeps all of
memory. -/
theorem runsTo_of_pull {i : Instr} {s u : State} (hexec : exec i s = .next (u.advance 1))
    (hbus : u.bus = s.pull.bus) : runsTo i s (u.advance 1) := by
  refine ⟨hexec, AgentState.sameMemory_of_mem ?_ ?_⟩
  · rw [State.advance_bus, hbus, State.pull_bus, Bus.read_snd_regions]
  · rw [State.advance_bus, hbus, AgentState.pull_mem]

/-- Settles O38: the cell of each opcode, and the push or pull with its own byte. -/
theorem stackInstructions : Obligations.StackInstructions :=
  ⟨Encoding.decodesTo_selected 0x48 0 0, Encoding.decodesTo_selected 0x68 0 0,
    Encoding.decodesTo_selected 0x08 0 0, Encoding.decodesTo_selected 0x28 0 0, fun s =>
    ⟨exec_of_push rfl, exec_of_push rfl, runsTo_of_pull (u := s.pull.loadA s.pulled) rfl rfl,
      runsTo_of_pull (u := s.pull.setFlags (Flags.ofByte s.pulled)) rfl rfl⟩⟩

end Sys2Proof.StackInstructions
end

section
/-! The statements of family 48_ungrouped: the compares and BIT (O26, O27), INC and DEC (O33), the increments of the
index registers and NOP (O34). -/

namespace Sys2Proof.Ungrouped

open Sys2Proof.Machine Sys2Proof.Safety

/-! ### Compare (R164)

The subtraction that a compare stands for has its carry set, so its result is the plain difference. -/

section
variable (r m : Byte)

theorem sbcBin_r_of_carry : (sbcBin r m true).r = r - m := by
  have h := Arithmetic.sbcBin_r_toNat r m true
  rw [Bool.toNat_true] at h
  bv_omega

theorem sbcBin_n_of_carry : (sbcBin r m true).n = (r - m).msb := congrArg BitVec.msb (sbcBin_r_of_carry r m)

theorem sbcBin_z_of_carry : (sbcBin r m true).z = (r == m) := by
  rw [Bool.eq_iff_iff, sbcBin, Arithmetic.adcBin_z_iff, ← sbcBin, sbcBin_r_of_carry, sub_eq_zero, beq_iff_eq]

theorem sbcBin_c_of_carry : (sbcBin r m true).c = decide (m.toNat ≤ r.toNat) := by
  rw [Bool.eq_iff_iff, Arithmetic.sbcBin_c_iff, decide_eq_true_iff, Bool.toNat_true]
  omega

end

/-- Settles O26: a compare takes N, Z and C as they are of the subtraction with the carry set. -/
theorem compareIsBinarySubtraction : Obligations.CompareIsBinarySubtraction := by
  intro p r m
  refine ⟨rfl, ?_⟩
  rw [sbcBin_n_of_carry, sbcBin_z_of_carry, sbcBin_c_of_carry]
  rfl

/-! ### CMP, CPX, CPY and BIT (R160 to R163) -/

/-- The three compares differ in the register alone. -/
theorem runsTo_compare {i : Instr} {s : State} {o : ReadOperand} {r : Byte}
    (hexec : exec i s = .next (((s.afterOperand o).compare r (s.operand o)).advance o.len)) :
    runsTo i s
      { s with
        p := s.p.compare r (s.operand o)
        pc := s.pc + BitVec.ofNat 16 o.len
        bus := (s.afterOperand o).bus } :=
  LoadStore.runsTo_of_afterOperand (f := fun u => (u.compare r (s.operand o)).advance o.len) hexec fun _ => rfl

/-- BIT is an instruction with the read operand `m`. -/
theorem runsTo_bit (m : EaMode) (s : State) :
    runsTo (.bit m) s
      { s with
        p := s.p.bitTest s.a (s.byteAt m)
        pc := s.pc + BitVec.ofNat 16 m.len
        bus := (s.afterByteAt m).bus } :=
  LoadStore.runsTo_of_afterOperand (o := .mem m)
    (f := fun u => (u.setFlags (s.p.bitTest s.a (s.byteAt m))).advance m.len) rfl fun _ => rfl

/-- Settles O27: each is its operand's reads, then the flags, then PC. -/
theorem comparesAndBitTestWriteFlagsOnly : Obligations.ComparesAndBitTestWriteFlagsOnly := fun _ m s =>
  ⟨runsTo_compare rfl, runsTo_compare rfl, runsTo_compare rfl, runsTo_bit m s⟩

/-! ### INC and DEC (R165, R166) -/

/-- The two differ in the function alone. -/
theorem updatesAt_modify (s : State) (f : Byte → Byte) (m : EaMode) :
    updatesAt s ((s.modify f m).advance m.len) m (f (s.byteAt m)) s.a (s.p.setNZ (f (s.byteAt m))) := by
  rw [AgentState.modify_eq]
  exact ⟨BusAndStack.storesOnly_updateAt rfl, rfl, rfl, rfl, rfl, rfl, rfl, rfl, rfl, rfl⟩

/-- Settles O33: each of the two is the shared operation with its own function. -/
theorem incrementAndDecrementMemory : Obligations.IncrementAndDecrementMemory := fun m s =>
  ⟨⟨_, rfl, updatesAt_modify s (fun v => v + 1) m⟩, ⟨_, rfl, updatesAt_modify s (fun v => v - 1) m⟩⟩

/-! ### INX, INY, DEX, DEY and NOP (R167 to R171) -/

/-- Settles O34: the cell of each opcode, and the load of the register with its new value; NOP leaves the state to the
move of PC. -/
theorem indexIncrementsAndNop : Obligations.IndexIncrementsAndNop :=
  ⟨Encoding.decodesTo_selected 0xE8 0 0, Encoding.decodesTo_selected 0xC8 0 0,
    Encoding.decodesTo_selected 0xCA 0 0, Encoding.decodesTo_selected 0x88 0 0,
    Encoding.decodesTo_selected 0xEA 0 0, fun s =>
    ⟨Transfer.runsTo_of_bus_eq (u := s.loadX (s.x + 1)) rfl rfl,
      Transfer.runsTo_of_bus_eq (u := s.loadY (s.y + 1)) rfl rfl,
      Transfer.runsTo_of_bus_eq (u := s.loadX (s.x - 1)) rfl rfl,
      Transfer.runsTo_of_bus_eq (u := s.loadY (s.y - 1)) rfl rfl,
      Transfer.runsTo_of_bus_eq (u := s) rfl rfl⟩⟩

end Sys2Proof.Ungrouped
end

section
/-! The statements of family 49_undocumented but for JAM (O45): the combinations with a shift (O46), the immediate
combinations (O47), the undocumented NOP (O48) and the unlisted bytes (O49). -/

namespace Sys2Proof.Undocumented

open Sys2Proof.Machine Sys2Proof.Safety

/-! ### SLO, RLA, SRE and RRA (R182 to R185) -/

/-- A read-modify-write that also sets A and the flags. -/
theorem updatesAt_with (s : State) (m : EaMode) (v a : Byte) (p : Flags) :
    updatesAt s ({ s.updateAt m v with a := a, p := p }.advance m.len) m v a p := by
  rw [AgentState.updateAt_with]
  exact ⟨BusAndStack.storesOnly_updateAt rfl, rfl, rfl, rfl, rfl, rfl, rfl, rfl, rfl, rfl⟩

/-- SLO, RLA and SRE differ in the shift and the combination alone. -/
theorem updatesAt_shiftCombine (s : State) (f : Byte → Bool → ShiftResult) (g : Byte → Byte → Byte) (m : EaMode) :
    updatesAt s ((s.shiftCombine f g m).advance m.len) m (f (s.byteAt m) s.p.c).r
      (g s.a (f (s.byteAt m) s.p.c).r)
      { s.p.setNZ (g s.a (f (s.byteAt m) s.p.c).r) with c := (f (s.byteAt m) s.p.c).c } :=
  updatesAt_with s m _ _ _

/-- RRA sets A and four flags from an addition. -/
theorem updatesAt_setArith (s : State) (m : EaMode) (v : Byte) (q : ArithResult) :
    updatesAt s (((s.updateAt m v).setArith q).advance m.len) m v q.r (s.p.setArith q) := by
  have hp : (s.updateAt m v).p = s.p := by rw [State.updateAt_eq]
  rw [State.setArith, hp]
  exact updatesAt_with s m v q.r _

theorem exec_rra (m : EaMode) (s : State) :
    let q := shiftRor (s.byteAt m) s.p.c
    exec (.rra m) s =
      .next (((s.updateAt m q.r).setArith
        (if s.p.d = true then bcdAdc s.a q.r q.c else adcBin s.a q.r q.c)).advance m.len) := by
  intro q
  rw [← Arithmetic.adcResult_eq]
  rfl

/-- Settles O46: three are the shared operation with their own functions, RRA the addition of the new byte. -/
theorem shiftAndCombine : Obligations.ShiftAndCombine := fun m s =>
  ⟨⟨_, rfl, updatesAt_shiftCombine s shiftAsl (fun a r => a ||| r) m⟩,
    ⟨_, rfl, updatesAt_shiftCombine s shiftRol (fun a r => a &&& r) m⟩,
    ⟨_, rfl, updatesAt_shiftCombine s shiftLsr (fun a r => a ^^^ r) m⟩,
    ⟨_, exec_rra m s, updatesAt_setArith s m _ _⟩⟩

/-! ### ANC, ALR and ARR (R186, R187, R189) -/

/-- The rotate with the carry as a mask. -/
theorem shiftRor_r_eq (v : Byte) (c : Bool) :
    (shiftRor v c).r = v >>> 1 ||| (if c = true then 0x80 else 0x00) := by
  cases c <;> rfl

theorem runsTo_anc (op b1 : Byte) (s : State) :
    runsTo (.anc op b1) s
      { s with
        a := s.a &&& b1
        p := { s.p.setNZ (s.a &&& b1) with c := (s.a &&& b1).msb }
        pc := s.pc + 2 } :=
  ⟨rfl, AgentState.sameMemory_of_mem rfl rfl⟩

theorem runsTo_alr (b1 : Byte) (s : State) :
    runsTo (.alr b1) s
      { s with
        a := (s.a &&& b1) >>> 1
        p := s.p.setShift (shiftLsr (s.a &&& b1) s.p.c)
        pc := s.pc + 2 } :=
  ⟨rfl, AgentState.sameMemory_of_mem rfl rfl⟩

theorem runsTo_arr {s : State} (hd : s.p.d = false) (b1 : Byte) :
    runsTo (.arr b1) s (AgentState.arrNext b1 s) := by
  rcases AgentState.execArr_cases b1 s with ⟨hset, -⟩ | ⟨-, hnext⟩
  · exact nomatch hd.symm.trans hset
  · exact ⟨hnext, AgentState.sameMemory_of_mem rfl rfl⟩

theorem exec_arr_of_decimal {s : State} (hd : s.p.d = true) (b1 : Byte) :
    exec (.arr b1) s = .refused .arrDecimal :=
  (AgentState.exec_eq_refused_iff _ _ _).mpr (.inr ⟨b1, rfl, hd, rfl⟩)

/-- Settles O47: AND, then what each of the three takes of the result. -/
theorem immediateCombinations : Obligations.ImmediateCombinations := by
  intro op b1 s t l r
  refine ⟨runsTo_anc op b1 s, ?alr, fun hd => ?arr, fun hd => exec_arr_of_decimal hd b1⟩
  case alr =>
    have hsign : l.msb = false := BitVec.msb_ushiftRight
    rw [← hsign]
    exact runsTo_alr b1 s
  case arr =>
    have hr : r = (shiftRor t s.p.c).r := (shiftRor_r_eq t s.p.c).symm
    rw [hr]
    exact runsTo_arr hd b1

/-! ### The undocumented NOP (R188) -/

/-- Settles O48: the form without operand leaves the state to the move of PC; a memory form is an instruction with a
read operand that does nothing with it. -/
theorem undocumentedNopMovesPcOnly : Obligations.UndocumentedNopMovesPcOnly := fun _ s =>
  ⟨Transfer.runsTo_of_bus_eq (u := s) rfl rfl, fun m =>
    LoadStore.runsTo_of_afterOperand (o := .mem m) (f := fun u => u.advance m.len) rfl fun _ => rfl⟩

/-! ### The unlisted bytes (R190) -/

/-- An opcode whose cell takes no operand is fetched without a look at the bytes after it. -/
theorem fetch_of_row_f1 {s : State} {i : Instr} (h : opcodeRow (s.memRead s.pc) = .f1 i) : s.fetch = i := by
  simp only [State.fetch, h]

theorem step_of_fetch_unlisted {s : State} {op : Byte} (hj : s.jammed = false) (h : s.fetch = .unlisted op) :
    step s = .refused (.unlistedOpcode op) := by
  have hadm : s.admits s.fetch = true := by rw [h]; rfl
  rw [AgentState.step_of_admits hj hadm, h]
  rfl

/-- Settles O49: the cell of an unlisted byte takes no operand, and its instruction is of tier 3, so that the step
runs it whatever is admitted. -/
theorem unlistedBytesAreRefused : Obligations.UnlistedBytesAreRefused := by
  refine ⟨rfl, fun op hop => ?_⟩
  have hrow : opcodeRow op = .f1 (.unlisted op) := AgentState.opcodeRow_unlisted hop
  have htakes : AgentState.Takes (opcodeRow op) [] (.unlisted op) := by
    rw [hrow]
    exact .f1 _
  refine ⟨AgentState.decode_of_takes htakes, fun s => ⟨rfl, fun hj hread => ?_⟩⟩
  exact step_of_fetch_unlisted hj (fetch_of_row_f1 (by rw [hread, hrow]))

end Sys2Proof.Undocumented
end

section
/-! The statements of family 60_exceptions: BRK (O40), the lines that the 6507 has not (O58), and the interrupts of a
core that has them (O59). -/

namespace Sys2Proof.Exceptions

open Sys2Proof.Machine Sys2Proof.Safety

/-! ### The frame of a trap (R201, R204)

Three pushes, then two reads of the vector, which leave memory as the pushes left it. -/

theorem byte_sub_one_sub_one_sub_one (b : Byte) : b - 1 - 1 - 1 = b - 3 := by
  rw [Control.byte_sub_one_sub_one (b - 1)]
  exact BitVec.sub_sub b 1 2

section
variable {s : State} {b : Word}

/-- The push of a status byte below a word leaves the rest of memory. -/
theorem memRead_push_push16_other (hb : ¬ deviceAt s b) (hne : busAddr b ≠ busAddr (stackAddr (s.sp - 2)))
    (w : Word) (v : Byte) : ((s.push16 w).push v).memRead b = (s.push16 w).memRead b := by
  have hmem : ¬ deviceAt (s.push16 w) b := by simpa [deviceAt] using hb
  have hsp : (s.push16 w).sp = s.sp - 2 := Control.byte_sub_one_sub_one s.sp
  exact State.memRead_push_other hmem (by rw [hsp]; exact hne.symm) v

theorem memRead_push_push16_status (h : ramAt s (stackAddr (s.sp - 2))) (w : Word) (v : Byte) :
    ((s.push16 w).push v).memRead (stackAddr (s.sp - 2)) = v := by
  have hsp : (s.push16 w).sp = s.sp - 2 := Control.byte_sub_one_sub_one s.sp
  rw [← hsp] at h ⊢
  exact State.memRead_push_same (by simpa [ramAt] using h) v

/-- The reads of the vector leave every byte of memory. -/
theorem memRead_enterTrap (hb : ¬ deviceAt s b) (ret : Word) (flag : Bool) (vector : Word) :
    (s.enterTrap ret flag vector).memRead b = ((s.push16 ret).push (s.p.toByte flag)).memRead b := by
  have hpushed : ¬ deviceAt ((s.push16 ret).push (s.p.toByte flag)) b := by simpa [deviceAt] using hb
  have hread : ¬ deviceAt (((s.push16 ret).push (s.p.toByte flag)).afterRead vector) b := by
    simpa [deviceAt] using hb
  calc (s.enterTrap ret flag vector).memRead b
      = (((s.push16 ret).push (s.p.toByte flag)).afterPair vector (vector + 1)).memRead b :=
        State.memRead_congr (s.enterTrap_bus ret flag vector) b
    _ = (((s.push16 ret).push (s.p.toByte flag)).afterRead vector).memRead b := State.memRead_afterRead hread _
    _ = ((s.push16 ret).push (s.p.toByte flag)).memRead b := State.memRead_afterRead hpushed _

/-- Where the vector is memory, PC is the word that stands there after the entry. -/
theorem enterTrap_pc_of_memory {vector : Word} (hlo : ¬ deviceAt s vector) (hhi : ¬ deviceAt s (vector + 1))
    (ret : Word) (flag : Bool) :
    (s.enterTrap ret flag vector).pc =
      hilo ((s.enterTrap ret flag vector).memRead (vector + 1)) ((s.enterTrap ret flag vector).memRead vector) := by
  have hpushed : ¬ deviceAt ((s.push16 ret).push (s.p.toByte flag)) (vector + 1) := by simpa [deviceAt] using hhi
  rw [State.enterTrap_pc, State.readPair, State.memRead_afterRead hpushed, memRead_enterTrap hlo,
    memRead_enterTrap hhi]

end

/-- The trap entry of the model is that of R201, on every platform. -/
theorem trapEntered_enterTrap (s : State) (ret : Word) (flag : Bool) (vector : Word) :
    trapEntered s (s.enterTrap ret flag vector) ret (s.p.toByte flag) vector := by
  have hmode : sameMode s (s.enterTrap ret flag vector) :=
    ⟨s.enterTrap_jammed ret flag vector, s.enterTrap_admitUndocumented ret flag vector⟩
  refine ⟨s.enterTrap_a ret flag vector, s.enterTrap_x ret flag vector, s.enterTrap_y ret flag vector, ?sp,
    s.enterTrap_p ret flag vector, hmode, s.enterTrap_pc ret flag vector, s.enterTrap_bus ret flag vector, ?regions,
    fun hram => ?high, fun hram => ?low, fun hram => ?status, fun b hb hhigh hlow hstatus => ?other,
    fun hlo hhi => enterTrap_pc_of_memory hlo hhi ret flag⟩
  case sp => rw [State.enterTrap_sp, byte_sub_one_sub_one_sub_one]
  case regions => simp
  case high =>
    have hmem := BusAndStack.not_deviceAt_of_ramAt hram
    have hne : busAddr (stackAddr s.sp) ≠ busAddr (stackAddr (s.sp - 2)) := by
      rw [ne_eq, busAddr_stackAddr_inj]
      bv_omega
    rw [memRead_enterTrap hmem, memRead_push_push16_other hmem hne, Control.memRead_push16_high _ hram]
  case low =>
    have hmem := BusAndStack.not_deviceAt_of_ramAt hram
    have hne : busAddr (stackAddr (s.sp - 1)) ≠ busAddr (stackAddr (s.sp - 2)) := by
      rw [ne_eq, busAddr_stackAddr_inj]
      bv_omega
    rw [memRead_enterTrap hmem, memRead_push_push16_other hmem hne, Control.memRead_push16_low _ hram]
  case status =>
    rw [memRead_enterTrap (BusAndStack.not_deviceAt_of_ramAt hram), memRead_push_push16_status hram]
  case other =>
    rw [memRead_enterTrap hb, memRead_push_push16_other hb hstatus, Control.memRead_push16_other _ hb hhigh hlow]

/-- Settles O40: BRK is the trap entry with PC + 2, bit 4 set and the vector 0xFFFE. -/
theorem breakTakesTheTrap : Obligations.BreakTakesTheTrap :=
  ⟨Encoding.decodesTo_selected 0x00 0 0, fun s =>
    ⟨s.raiseBrk, rfl, trapEntered_enterTrap s (s.pc + 2) true Config.vecIrqBrk⟩⟩

/-! ### The handler's test (R208) -/

theorem toByte_bit_four (p : Flags) (b : Bool) : (p.toByte b).getLsbD 4 = b := by
  have hd := p.d.toNat_lt
  have hi := p.i.toNat_lt
  have hz := p.z.toNat_lt
  have hc := p.c.toNat_lt
  rw [Bool.eq_iff_iff, BitVec.getLsbD, AgentState.toNat_toByte, Nat.testBit_eq_decide_div_mod_eq,
    decide_eq_true_iff]
  cases b <;> simp <;> omega

/-- The byte that the entry pushed last is the one a pull would find. -/
theorem pulled_enterTrap {s : State} (hram : stackIsRam s) (ret : Word) (b : Bool) (vector : Word) :
    (s.enterTrap ret b vector).pulled = s.p.toByte b := by
  have hshares := BusAndStack.sharesStack_enterTrap hram ret b vector
  have hpushed : stackIsRam (s.push16 ret) := BusAndStack.stackIsRam_push (BusAndStack.stackIsRam_push hram _) _
  rw [State.pulled, hshares.read, hshares.sp]
  exact State.pulled_push (hpushed _) _

/-- Bit 4 of that byte says how the trap was entered. -/
theorem enteredByBrk_enterTrap {s : State} (hram : stackIsRam s) (ret : Word) (b : Bool) (vector : Word) :
    (s.enterTrap ret b vector).enteredByBrk = b := by
  rw [State.enteredByBrk, pulled_enterTrap hram, toByte_bit_four]

/-! ### The poll (R203, R204) -/

section
variable (s : State) {l : InterruptLines}

theorem pollInterrupts_of_nmi (h : l.nmiLatched = true) : s.pollInterrupts true true l = some s.takeNmi := by
  simp [State.pollInterrupts, h]

theorem pollInterrupts_of_not_nmi (h : l.nmiLatched = false) :
    s.pollInterrupts true true l = if l.irqAsserted = true ∧ s.p.i = false then some s.takeIrq else none := by
  simp [State.pollInterrupts, h]

/-- A core without the inputs takes nothing. -/
theorem pollInterrupts_of_no_inputs : s.pollInterrupts false false l = none := rfl

end

/-- Settles O59: both entries are trap entries with the address of the next instruction and bit 4 clear. -/
theorem interruptEntry : Obligations.InterruptEntry := by
  intro s l
  refine ⟨pollInterrupts_of_nmi s, fun hnmi hirq hi => ?irq, fun hnmi hnone => ?none,
    trapEntered_enterTrap s s.pc false Config.vecNmi, trapEntered_enterTrap s s.pc false Config.vecIrqBrk,
    fun hram => ⟨enteredByBrk_enterTrap hram _ _ _, enteredByBrk_enterTrap hram _ _ _, s.raiseBrk, rfl,
      enteredByBrk_enterTrap hram _ _ _⟩⟩
  case irq => rw [pollInterrupts_of_not_nmi s hnmi, if_pos ⟨hirq, hi⟩]
  case none =>
    have htaken : ¬ (l.irqAsserted = true ∧ s.p.i = false) := by
      rintro ⟨hirq, hi⟩
      simp [hirq, hi] at hnone
    rw [pollInterrupts_of_not_nmi s hnmi, if_neg htaken]

/-- Settles O58: with both inputs absent the poll finds nothing, so either branch is the step. -/
theorem noInterruptIsTaken : Obligations.NoInterruptIsTaken := by
  refine ⟨rfl, rfl, fun l s => ?_⟩
  have hpoll : s.pollInterrupts Config.hasNmi Config.hasIrq l = none := pollInterrupts_of_no_inputs s
  simp only [stepWithLines, hpoll, ite_self]

end Sys2Proof.Exceptions
end
